-- ==== Sys2Proof/Word.lean ====
section
/-! DEFINITION. The types of the values the block handles, and their plainest readings.

spec/00_scope.md R8, R13; spec/10_state.md R21, R34 to R36; spec/30_encoding.md R91, R92. -/

namespace Sys2Proof

/-- `u8`: one byte of memory, one channel of a pixel, one gray value. -/
abbrev Byte := BitVec 8

/-- A 32-bit lane (R91, R94): a pixel lane, or a luma lane. -/
abbrev Lane := BitVec 32

/-- The value of a host register, a row pointer or a loop register. R21 makes these `AW` bits wide with
`16 <= AW <= 64` (R12); a `Word` is 64 bits and holds the `AW`-bit value zero-extended (log 2). -/
abbrev Word := BitVec 64

/-- One vector of `VB = 16` bytes (R8), in memory order: element `k` is byte `b[k]`. -/
abbrev ByteVec := Vector Byte 16

/-- One luma vector: four lanes `w[0]` to `w[3]` (R35). -/
abbrev LaneVec := Vector Lane 4

/-- A pair `(lo, hi)` of 16-bit sub-lanes of one 32-bit lane, `lo` in bits 15:0 (R92). -/
structure Pair16 where
  lo : BitVec 16
  hi : BitVec 16
  deriving DecidableEq, Repr

end Sys2Proof
end

