-- ==== Sys2Proof/Config.lean ====
section
/-! DEFINITION. The parameters the spec leaves open, as one record of plain data.

spec/00_scope.md R8 to R12 and R121. `State` carries the record of its block (`State.cfg`), no step
changes it, and a statement over all states holds for every configuration (log 1). -/

namespace Sys2Proof

/-- `CFG = (WR, WG, WB, SHIFT)` of R9, and the address width `AW` of R12. The numbers are unbounded here,
so that an invalid configuration can be written down and refused (R10; `Config.valid`). -/
structure Config where
  wr : Nat
  wg : Nat
  wb : Nat
  shift : Nat
  aw : Nat
  deriving DecidableEq, Repr

/-- `ROUND = 2^(SHIFT-1)` (R9, R121): not an independent parameter. -/
def Config.round (c : Config) : Nat := 2 ^ (c.shift - 1)

/-- `TILE`, the pixels of a tile (R8). -/
def Config.tile : Nat := 16

/-- The reference configuration `REF601_14` (R11) at the reference width `AW = 64` (R12). No meaning reads
it: it is the instance `State.reset` is given and the one the spec's test vectors use.
DESIGN CHOICE, unsafe (log 1, log 2). -/
def Config.reference : Config := { wr := 4899, wg := 9617, wb := 1868, shift := 14, aw := 64 }

end Sys2Proof
end

