-- ==== Sys2Proof/Syntax.lean ====
section
/-! DEFINITION. The instructions of spec/opcode_table.json, the two word formats, and what the host and
the platform can do.

spec/00_scope.md R2; spec/30_encoding.md R97, R99, R101, R105, R106; spec/44_dispatcher_host.md R230. -/

namespace Sys2Proof

/-- The one host command and the nine micro-operations (R2), one constructor per row of the opcode table.
The only written operand is the group digit of `LUMA` (R107), 0 to 3. -/
inductive Instr where
  | convert
  | rchk
  | tchk
  | tldU
  | tldA
  | luma (g : Fin 4)
  | pack
  | tstU
  | tstA
  | radv
  deriving DecidableEq, Repr

/-- The two formats (R99): the command word `C`, `AW` bits, and the micro-operation word `U`, 8 bits. They
never share a stream, so a word is told apart by where it comes from, not by its bits. -/
inductive CodeWord where
  /-- The value of a `WR 0, v`. -/
  | command (v : Word)
  /-- A word the sequencer's fetch function produces. -/
  | micro (w : BitVec 8)
  deriving DecidableEq, Repr

/-- The addresses `base` to `base + size - 1`. -/
structure Region where
  base : Nat
  size : Nat
  deriving DecidableEq, Repr

/-- The addresses of a region. -/
def Region.covers (r : Region) (a : Nat) : Bool := decide (r.base ≤ a) && decide (a < r.base + r.size)

/-- The two agents (R20). -/
inductive Agent where
  | host
  | sequencer
  deriving DecidableEq, Repr

/-- One operation of the block's surroundings. -/
inductive EnvOp where
  /-- `RD n` (R97). -/
  | rd (n : Nat)
  /-- `WR n, v` (R97). -/
  | wr (n : Nat) (v : Word)
  /-- `POLL` (R106): `RD STATUS` until `BUSY` reads 0. -/
  | poll
  /-- The host reads one byte of memory (R230, `collect`). -/
  | memRd (a : Nat)
  /-- The host writes one byte of memory (R230, `start`: the source pixels). -/
  | memWr (a : Nat) (b : Byte)
  /-- The platform changes which addresses it backs (spec/93_implementation_defined.md X4). -/
  | back (unbacked : List Region)
  /-- The platform raises `reset` (R290). -/
  | reset
  deriving DecidableEq, Repr

/-- `CALL src, slen, w, h, ss, dst, dlen, ds` (R106): the ten lines it stands for, in its order. -/
def EnvOp.call (src slen w h ss dst dlen ds : Word) : List EnvOp :=
  [.wr 2 src, .wr 3 slen, .wr 4 w, .wr 5 h, .wr 6 ss, .wr 7 dst, .wr 8 dlen, .wr 9 ds, .wr 0 1, .poll]

end Sys2Proof
end

