-- ==== Sys2Proof/WellFormed.lean ====
section
/-! DEFINITION. What the spec requires of a configuration, of a word and of a host access before any rule
applies.

spec/00_scope.md R10, R12; spec/30_encoding.md R97, R102, R103. An `Instr` has no check of its own: its one
operand is a `Fin 4`, so no ill-formed instruction can be written. -/

namespace Sys2Proof

/-- R10 (a): `1 <= SHIFT <= 15`. -/
def Config.shiftOk (c : Config) : Bool := decide (1 ≤ c.shift) && decide (c.shift ≤ 15)

/-- R10 (b): each weight fits a signed 16-bit lane as a non-negative number. -/
def Config.weightsOk (c : Config) : Bool :=
  decide (c.wr ≤ 32767) && decide (c.wg ≤ 32767) && decide (c.wb ≤ 32767)

/-- R10 (c): `WR + WG + WB <= 2^SHIFT`. -/
def Config.sumNotAbove (c : Config) : Bool := decide (c.wr + c.wg + c.wb ≤ 2 ^ c.shift)

/-- R10 (d): `WR + WG + WB >= 2^SHIFT - floor(2^(SHIFT-1) / 255)`. -/
def Config.sumNotBelow (c : Config) : Bool :=
  decide (2 ^ c.shift ≤ c.wr + c.wg + c.wb + 2 ^ (c.shift - 1) / 255)

/-- R12: `16 <= AW <= 64`. -/
def Config.awOk (c : Config) : Bool := decide (16 ≤ c.aw) && decide (c.aw ≤ 64)

/-- A configuration the spec's rules hold for (R10, R12; X9, X10). -/
def Config.valid (c : Config) : Bool :=
  c.shiftOk && c.weightsOk && c.sumNotAbove && c.sumNotBelow && c.awOk

/-- R102, the legal micro-operation words: `w[2] = 0`; `w[7:4]` in 1 to 7; `w[3] = 0` unless `w[7:4]` is 3
or 6; `w[1:0] = 0` unless `w[7:4] = 4`. -/
def legalMicro (w : BitVec 8) : Bool :=
  !w.getLsbD 2
    && decide (1 ≤ (w.extractLsb' 4 4).toNat ∧ (w.extractLsb' 4 4).toNat ≤ 7)
    && (!w.getLsbD 3 || decide (w.extractLsb' 4 4 = 3) || decide (w.extractLsb' 4 4 = 6))
    && (decide (w.extractLsb' 0 2 = 0) || decide (w.extractLsb' 4 4 = 4))

/-- R103, the one legal command word. -/
def legalCommand (v : Word) : Bool := decide (v = 1)

/-- A legal word of either format. -/
def CodeWord.legal : CodeWord → Bool
  | .command v => legalCommand v
  | .micro w => legalMicro w

/-- R97: a `WR` presents an `AW`-bit value; a byte address has `AW` bits (R60). Every other operation of
the surroundings is well formed as it stands. -/
def EnvOp.wellFormed (aw : Nat) : EnvOp → Bool
  | .rd _ => true
  | .wr _ v => decide (v.toNat < 2 ^ aw)
  | .poll => true
  | .memRd a => decide (a < 2 ^ aw)
  | .memWr a _ => decide (a < 2 ^ aw)
  | .back _ => true
  | .reset => true

end Sys2Proof
end

