-- ==== Sys2Proof/Decode.lean ====
section
/-! DEFINITION. The decoder of both word formats, total and rejecting by name, and the encoder beside it.

spec/30_encoding.md R99 to R104. -/

namespace Sys2Proof

/-- What a word decodes to. -/
inductive Decoded where
  | instr (i : Instr)
  /-- A micro-operation word outside the 12 of R101 (R102). -/
  | illegal
  /-- A command word other than 1 (R103). -/
  | reserved
  deriving DecidableEq, Repr

/-- Field `OP`, bits 7:4 (R100). -/
def opField (w : BitVec 8) : BitVec 4 := w.extractLsb' 4 4

/-- Field `A`, bit 3 (R100). -/
def aField (w : BitVec 8) : Bool := w.getLsbD 3

/-- Bit 2, which must be 0 (R100). -/
def zeroField (w : BitVec 8) : Bool := w.getLsbD 2

/-- Field `G`, bits 1:0 (R100). -/
def gField (w : BitVec 8) : Fin 4 := (w.extractLsb' 0 2).toFin

/-- Format `U` (R100 to R102). -/
def decodeMicro (w : BitVec 8) : Decoded :=
  match (opField w).toNat, aField w, zeroField w, (gField w).val with
  | 1, false, false, 0 => .instr .rchk
  | 2, false, false, 0 => .instr .tchk
  | 3, false, false, 0 => .instr .tldU
  | 3, true, false, 0 => .instr .tldA
  | 4, false, false, _ => .instr (.luma (gField w))
  | 5, false, false, 0 => .instr .pack
  | 6, false, false, 0 => .instr .tstU
  | 6, true, false, 0 => .instr .tstA
  | 7, false, false, 0 => .instr .radv
  | _, _, _, _ => .illegal

/-- Format `C` (R103): field `OPC`, bits 3:0, is 1 for `CONVERT`; every bit above must be 0. -/
def decodeCommand (v : Word) : Decoded :=
  if v.extractLsb' 0 4 = 1 ∧ v >>> 4 = 0 then .instr .convert else .reserved

/-- The decoder of both formats (R99). -/
def decode : CodeWord → Decoded
  | .command v => decodeCommand v
  | .micro w => decodeMicro w

/-- `OP`, `A`, bit 2 = 0 and `G` put together (R100). -/
def microWord (op : BitVec 4) (a : Bool) (g : BitVec 2) : BitVec 8 :=
  op ++ BitVec.ofBool a ++ (0 : BitVec 1) ++ g

/-- The word of an instruction (R101, R103). -/
def encode : Instr → CodeWord
  | .convert => .command 1
  | .rchk => .micro (microWord 1 false 0)
  | .tchk => .micro (microWord 2 false 0)
  | .tldU => .micro (microWord 3 false 0)
  | .tldA => .micro (microWord 3 true 0)
  | .luma g => .micro (microWord 4 false (BitVec.ofFin g))
  | .pack => .micro (microWord 5 false 0)
  | .tstU => .micro (microWord 6 false 0)
  | .tstA => .micro (microWord 6 true 0)
  | .radv => .micro (microWord 7 false 0)

/-- The instruction of a decoder's answer, if it is one. -/
def Decoded.instr? : Decoded → Option Instr
  | .instr i => some i
  | .illegal => none
  | .reserved => none

/-- The instruction whose bits, numbered as spec/opcode_table.json numbers them, are `w`. A word of 8 bits is
of format `U`; any other length, and an 8-bit word that is none of format `U` (its `OP` is 0), is read as a
command word, the bits above `nbits` being 0. Word 1 is no legal micro-operation word, so the two readings
never compete (log 17). -/
def decodeTableWord (nbits w : Nat) : Option Instr :=
  match (if nbits = 8 ∧ w < 2 ^ 8 then (decodeMicro (BitVec.ofNat 8 w)).instr? else none) with
  | some i => some i
  | none => if w < 2 ^ 64 then (decodeCommand (BitVec.ofNat 64 w)).instr? else none

/-! Every constructor's decoding, on the word written out from R101 and R103. -/

theorem decode_convert : decode (.command 0x1) = .instr .convert := by decide
theorem decode_rchk : decode (.micro 0x10) = .instr .rchk := by decide
theorem decode_tchk : decode (.micro 0x20) = .instr .tchk := by decide
theorem decode_tldU : decode (.micro 0x30) = .instr .tldU := by decide
theorem decode_tldA : decode (.micro 0x38) = .instr .tldA := by decide
theorem decode_luma_0 : decode (.micro 0x40) = .instr (.luma 0) := by decide
theorem decode_luma_1 : decode (.micro 0x41) = .instr (.luma 1) := by decide
theorem decode_luma_2 : decode (.micro 0x42) = .instr (.luma 2) := by decide
theorem decode_luma_3 : decode (.micro 0x43) = .instr (.luma 3) := by decide
theorem decode_pack : decode (.micro 0x50) = .instr .pack := by decide
theorem decode_tstU : decode (.micro 0x60) = .instr .tstU := by decide
theorem decode_tstA : decode (.micro 0x68) = .instr .tstA := by decide
theorem decode_radv : decode (.micro 0x70) = .instr .radv := by decide

end Sys2Proof
end

