-- ==== Sys2Proof/Machine/State.lean ====
section
/-! DEFINITION. The state of the block and its surroundings, the reasons a step can stop, and the state after
reset.

spec/10_state.md R20 to R49; spec/20_memory.md R60, R62; spec/70_reset_and_hazards.md R290. -/

namespace Sys2Proof.Machine

/-- The 12 phases of the sequencer, and no others (R38). -/
inductive Phase where
  | idle
  | rchk
  | tchk
  | ld
  | lum0
  | lum1
  | lum2
  | lum3
  | pk
  | st
  | radv
  | fault
  deriving DecidableEq, Repr

/-- Why a step has no next state though the block's rules are not broken. The block's own faults
(`AlignFault`, `BusFault`) are not here: they are next states (R266). -/
inductive Fault where
  /-- Raised by `step` when neither agent has a step: the phase is `IDLE` or `FAULT` (R191, R276, X14) and no
  operation of the surroundings is pending. Safe: nothing is claimed of what does not happen (log 14). -/
  | noStep
  /-- Raised by `envStep` when the host reads or writes memory at an address that is no `AW`-bit address
  (R60): such an address does not exist. Safe (log 15). -/
  | addressOutsideSpace
  deriving DecidableEq, Repr

/-- Why a step is given no meaning. -/
inductive Refusal where
  /-- Raised by `exec` for an instruction that has no meaning yet; no arm does. Safe. -/
  | notModelled (mnemonic : String)
  /-- Raised by `step` for a configuration that breaks R10 or R12: "a model must refuse an invalid one"
  (X9, X10). Safe. -/
  | invalidConfig
  /-- Raised by `sequencerStep` on an illegal micro-operation word: "a model's step on an `illegal` word is a
  refusal" (R102, X6). No state makes the fetch function produce one. Safe. -/
  | illegalWord
  /-- Raised by `envStep` when the host touches a buffer against R77 while `BUSY = 1`: "a model gives such a
  run no meaning (it refuses it)" (X2). Safe (log 8). -/
  | hostDutyBroken
  /-- Raised by `envStep` when a `WR` presents a value that is no `AW`-bit value (R97). Safe (log 15). -/
  | valueTooWide
  deriving DecidableEq, Repr

/-- Memory: the bytes that differ from what an unlisted address reads as, by rising address. -/
abbrev Memory := List Host.Cell

/-- All the state the spec gives the block (R21 to R44), its parameters (R48), the environment's state it
shares (memory, R48), and the model's own three fields for its surroundings (`env`, `turns`, `reply`). -/
structure State where
  /-- `CFG` and `AW`, hardwired (R33, R48): no step changes them (log 1, log 2). -/
  cfg : Config
  /-- `SRC`, register 2 (R25). -/
  src : Word
  /-- `SRC_LEN`, register 3 (R26). -/
  srcLen : Word
  /-- `WIDTH`, register 4 (R27). -/
  width : Word
  /-- `HEIGHT`, register 5 (R28). -/
  height : Word
  /-- `SSTRIDE`, register 6 (R29). -/
  sstride : Word
  /-- `DST`, register 7 (R30). -/
  dst : Word
  /-- `DST_LEN`, register 8 (R31). -/
  dstLen : Word
  /-- `DSTRIDE`, register 9 (R32). -/
  dstride : Word
  /-- `STATUS.DONE` (R23, R42). -/
  done : Bool
  /-- `STATUS.ERR` (R23, R42). -/
  err : Bool
  /-- `STATUS.PATH`: 1 aligned (R23, R42). -/
  path : Bool
  /-- `STATUS.ECODE` (R23, R42, R261). -/
  ecode : BitVec 4
  /-- `PH` (R38). -/
  ph : Phase
  /-- `ROW` (R39). -/
  row : Word
  /-- `COL` (R39). -/
  col : Word
  /-- `SP` (R40). -/
  sp : Word
  /-- `DP` (R40). -/
  dp : Word
  /-- `TAILF` (R41). -/
  tailf : Bool
  /-- `SV[0..3]` (R34). -/
  sv : Vector ByteVec 4
  /-- `LV[0..3]` (R35). -/
  lv : Vector LaneVec 4
  /-- `OV` (R36). -/
  ov : ByteVec
  /-- The bytes of memory (R60). -/
  mem : Memory
  /-- The addresses the platform does not back: `MEMOK` (R12, R62; log 3). -/
  unbacked : List Region
  /-- The model's own: what the surroundings are about to do, in order (log 6). -/
  env : List EnvOp
  /-- The model's own: which agent takes the next steps (R229; log 6). -/
  turns : List Agent
  /-- The model's own: the value the host's last read returned (R97; log 7). -/
  reply : Option Word
  deriving DecidableEq, Repr

/-- The state after reset of a block built with configuration `c`: the table of R49. The vector registers,
which R37 leaves unspecified, hold zeros (DESIGN CHOICE, unsafe, log 5); nothing is listed in memory and
every address is backed (DESIGN CHOICE, unsafe, logs 3 and 4); nothing is pending (log 6). -/
def State.resetOf (c : Config) : State where
  cfg := c
  src := 0
  srcLen := 0
  width := 0
  height := 0
  sstride := 0
  dst := 0
  dstLen := 0
  dstride := 0
  done := false
  err := false
  path := false
  ecode := 0
  ph := .idle
  row := 0
  col := 0
  sp := 0
  dp := 0
  tailf := false
  sv := Vector.replicate 4 (Vector.replicate 16 0)
  lv := Vector.replicate 4 (Vector.replicate 4 0)
  ov := Vector.replicate 16 0
  mem := []
  unbacked := []
  env := []
  turns := []
  reply := none

/-- The machine right after reset, as the reference instance (R11, R12; DESIGN CHOICE, unsafe, log 1). -/
def State.reset : State := State.resetOf Config.reference

end Sys2Proof.Machine
end

