-- ==== Sys2Proof/Machine/Ops.lean ====
section
/-! DEFINITION. The named operations every meaning is written over: `AW`-bit arithmetic, memory and its port,
and the entries of the block's refusals and faults.

spec/20_memory.md R60 to R62, R70; spec/60_exceptions.md R263, R266; spec/44_dispatcher_host.md R221. -/

namespace Sys2Proof.Machine

/-! ## `AW`-bit arithmetic (R13) -/

/-- `n mod 2^AW`, the `AW`-bit register value of an integer. -/
def wrap (c : Config) (n : Nat) : Word := BitVec.ofNat 64 (n % 2 ^ c.aw)

/-! ## Bytes of memory (R60) -/

/-- What a byte nothing has written reads as. DESIGN CHOICE, unsafe (log 4). -/
def Memory.unlisted : Byte := 0

/-- The byte at address `a`. -/
def Memory.read : Memory → Nat → Byte
  | [], _ => Memory.unlisted
  | (k, b) :: m, a => if k = a then b else Memory.read m a

/-- The byte at address `a` becomes `b`, in canonical form: addresses rise, and no listed byte is the one an
unlisted address reads as. -/
def Memory.write : Memory → Nat → Byte → Memory
  | [], a, b => if b = Memory.unlisted then [] else [(a, b)]
  | (k, c) :: m, a, b =>
    if k < a then (k, c) :: Memory.write m a b
    else if k = a then (if b = Memory.unlisted then m else (a, b) :: m)
    else if b = Memory.unlisted then (k, c) :: m
    else (a, b) :: (k, c) :: m

/-- The bytes of a list go to the addresses from `a` up, the first to `a`. -/
def Memory.writeList : Memory → Nat → List Byte → Memory
  | m, _, [] => m
  | m, a, b :: bs => Memory.writeList (Memory.write m a b) (a + 1) bs

/-- Every address of the list is above `a`. -/
def Memory.above (a : Nat) : Memory → Bool
  | [] => true
  | (k, _) :: _ => decide (a < k)

/-- The canonical form. -/
def Memory.wf : Memory → Bool
  | [] => true
  | (k, b) :: m => decide (b ≠ Memory.unlisted) && Memory.above k m && Memory.wf m

/-! ## The memory port (R62) -/

/-- `MEMOK(a)` (R12, R62). An address outside the space is not memory (log 9). -/
def State.memok (s : State) (a : Nat) : Bool :=
  decide (a < 2 ^ s.cfg.aw) && s.unbacked.all fun r => !r.covers a

/-- `MEMOK` on the 16 addresses of an access at `addr`. -/
def State.backed16 (s : State) (addr : Nat) : Bool :=
  (List.range 16).all fun j => s.memok (addr + j)

/-- `MemRead(addr, 16)` (R62): the 16 bytes, lowest address first; none where it raises `BusFault`. -/
def State.memRead (s : State) (addr : Nat) : Option ByteVec :=
  if s.backed16 addr then some (Vector.ofFn fun j => Memory.read s.mem (addr + j.val)) else none

/-- `MemWrite(addr, 16, v)` (R62): memory with `v[j]` at `addr + j`; none where it raises `BusFault`, and
then nothing is stored. -/
def State.memWrite (s : State) (addr : Nat) (v : ByteVec) : Option Memory :=
  if s.backed16 addr then some (Memory.writeList s.mem addr v.toList) else none

/-! ## Error codes (R261) -/

/-- `E_CMD`. -/
def eCmd : BitVec 4 := 1
/-- `E_NULL`. -/
def eNull : BitVec 4 := 2
/-- `E_WIDTH`. -/
def eWidth : BitVec 4 := 3
/-- `E_STRIDE`. -/
def eStride : BitVec 4 := 4
/-- `E_SIZE`. -/
def eSize : BitVec 4 := 5
/-- `E_RANGE`. -/
def eRange : BitVec 4 := 6
/-- `E_OVERLAP`. -/
def eOverlap : BitVec 4 := 7
/-- `E_ALIGN`, the code of `AlignFault`. -/
def eAlign : BitVec 4 := 8
/-- `E_BUS`, the code of `BusFault`. -/
def eBus : BitVec 4 := 9

/-! ## Entries (R221, R263, R266) -/

/-- What a command clears before it is processed (R221). -/
def State.clearRecord (s : State) : State := { s with done := false, err := false, ecode := 0 }

/-- `raise Refused(code)` (R263): the record, and nothing else; `PH` stays `IDLE`. -/
def State.raiseRefused (s : State) (code : BitVec 4) : State := { s with err := true, ecode := code }

/-- Fault entry (R266), shared by `AlignFault` and `BusFault`: nothing the micro-operation would have
written is written. -/
def State.raiseFault (s : State) (code : BitVec 4) : State :=
  { s with ph := .fault, err := true, ecode := code, done := false }

/-- There is no return from a fault but the `reset` event (R266, R269, R290): every register takes its value
of R49, memory is not touched, the constants stay. What is not the block's (backing, pending operations,
turns, the host's last reply) stays too. -/
def State.resetEvent (s : State) : State :=
  { State.resetOf s.cfg with
    mem := s.mem, unbacked := s.unbacked, env := s.env, turns := s.turns, reply := s.reply }

end Sys2Proof.Machine
end

