-- ==== Sys2Proof/Machine/Operands.lean ====
section
/-! DEFINITION. Where the operands of the micro-operations are: addresses, channels, pairs, columns.

spec/20_memory.md R64; spec/30_encoding.md R91 to R93; spec/40_luma_weighter.md R124, R125;
spec/42_tile_load_store.md R170, R174; spec/43_tile_sequencer.md R192. -/

namespace Sys2Proof.Machine

/-- `aligned(x)` (R64): a multiple of the vector's 16 bytes. -/
def aligned (x : Nat) : Bool := decide (x % 16 = 0)

/-- `awd(w)`, the largest multiple of 16 not above `w` (R192). -/
def awd (w : Nat) : Nat := w - w % 16

/-- `TA = (SP + 4*COL) mod 2^AW` (R170). -/
def State.ta (s : State) : Nat := (s.sp.toNat + 4 * s.col.toNat) % 2 ^ s.cfg.aw

/-- `DA = (DP + COL) mod 2^AW` (R174). -/
def State.da (s : State) : Nat := (s.dp.toNat + s.col.toNat) % 2 ^ s.cfg.aw

/-- The four reads of a tile load at `ta`, in ascending order (R70, R170): the four source vectors, or none
as soon as one read raises `BusFault`. -/
def State.readTile (s : State) (ta : Nat) : Option (Vector ByteVec 4) := do
  let v0 ← s.memRead ta
  let v1 ← s.memRead (ta + 16)
  let v2 ← s.memRead (ta + 32)
  let v3 ← s.memRead (ta + 48)
  return #v[v0, v1, v2, v3]

/-- Channel R of pixel lane `i`: byte `4i` (R124). -/
def chanR (v : ByteVec) (i : Fin 4) : Byte := v[4 * i.val]

/-- Channel G of pixel lane `i`: byte `4i + 1` (R124). -/
def chanG (v : ByteVec) (i : Fin 4) : Byte := v[4 * i.val + 1]

/-- Channel B of pixel lane `i`: byte `4i + 2` (R124). -/
def chanB (v : ByteVec) (i : Fin 4) : Byte := v[4 * i.val + 2]

/-- Channel A of pixel lane `i`: byte `4i + 3` (R124). No meaning uses it: alpha is discarded. -/
def chanA (v : ByteVec) (i : Fin 4) : Byte := v[4 * i.val + 3]

/-- Pixel lane `px[i]`, little-endian (R91). -/
def pixelLane (v : ByteVec) (i : Fin 4) : Lane := chanA v i ++ chanB v i ++ chanG v i ++ chanR v i

/-- A pair seen as one 32-bit lane (R92). -/
def Pair16.toLane (p : Pair16) : Lane := p.hi ++ p.lo

/-- The RB pair `(zext_16(R), zext_16(B))` (R92, R125). -/
def rbPair (r b : Byte) : Pair16 := { lo := r.setWidth 16, hi := b.setWidth 16 }

/-- The G0 pair `(zext_16(G), 0)` (R92, R125). -/
def g0Pair (g : Byte) : Pair16 := { lo := g.setWidth 16, hi := 0 }

/-- `KRB = (WR, WB)` (R93). -/
def krbPair (c : Config) : Pair16 := { lo := BitVec.ofNat 16 c.wr, hi := BitVec.ofNat 16 c.wb }

/-- `KG0 = (WG, 0)` (R93). -/
def kg0Pair (c : Config) : Pair16 := { lo := BitVec.ofNat 16 c.wg, hi := 0 }

end Sys2Proof.Machine
end

