-- ==== Sys2Proof/Machine/Flags.lean ====
section
/-! DEFINITION. Everything that is computed into or out of a flag: `STATUS`, the validation code, `PATH`.

spec/10_state.md R23, R38, R45; spec/44_dispatcher_host.md R223, R225. -/

namespace Sys2Proof.Machine

/-- `STATUS.BUSY` as a property of the phase: neither `IDLE` nor `FAULT` (R23, R38). -/
def Phase.running : Phase → Bool
  | .idle => false
  | .fault => false
  | .rchk => true
  | .tchk => true
  | .ld => true
  | .lum0 => true
  | .lum1 => true
  | .lum2 => true
  | .lum3 => true
  | .pk => true
  | .st => true
  | .radv => true

/-- `STATUS.BUSY` (R23). -/
def State.busy (s : State) : Bool := s.ph.running

/-- `STATUS.FAULT` (R23). -/
def State.faulted (s : State) : Bool := decide (s.ph = .fault)

/-- The low 12 bits of `STATUS` (R23): `ECODE` 11:8, 7:5 zero, `PATH` 4, `FAULT` 3, `ERR` 2, `DONE` 1,
`BUSY` 0. -/
def State.statusLow (s : State) : BitVec 12 :=
  s.ecode ++ (0 : BitVec 3) ++ BitVec.ofBool s.path ++ BitVec.ofBool s.faulted ++ BitVec.ofBool s.err
    ++ BitVec.ofBool s.done ++ BitVec.ofBool s.busy

/-- `STATUS` as read: all other bits are 0 (R23). -/
def State.status (s : State) : Word := s.statusLow.setWidth 64

/-! The six checks of R223, each `true` where it fails, on mathematical integers. -/

/-- Check 1. -/
def State.nullFails (s : State) : Bool := decide (s.src.toNat = 0) || decide (s.dst.toNat = 0)

/-- Check 2. -/
def State.widthFails (s : State) : Bool := decide (s.width.toNat < 16)

/-- Check 3. -/
def State.strideFails (s : State) : Bool :=
  decide (s.sstride.toNat < 4 * s.width.toNat) || decide (s.dstride.toNat < s.width.toNat)

/-- Check 4. -/
def State.sizeFails (s : State) : Bool :=
  decide (s.srcLen.toNat < s.height.toNat * s.sstride.toNat)
    || decide (s.dstLen.toNat < s.height.toNat * s.dstride.toNat)

/-- Check 5. -/
def State.rangeFails (s : State) : Bool :=
  decide (2 ^ s.cfg.aw < s.src.toNat + s.srcLen.toNat)
    || decide (2 ^ s.cfg.aw < s.dst.toNat + s.dstLen.toNat)

/-- Check 6. -/
def State.overlapFails (s : State) : Bool :=
  decide (0 < s.srcLen.toNat) && decide (0 < s.dstLen.toNat)
    && decide (s.src.toNat < s.dst.toNat + s.dstLen.toNat)
    && decide (s.dst.toNat < s.src.toNat + s.srcLen.toNat)

/-- `validate()` (R223): the code of the first check that fails, or 0. -/
def State.validate (s : State) : BitVec 4 :=
  if s.nullFails then eNull
  else if s.widthFails then eWidth
  else if s.strideFails then eStride
  else if s.sizeFails then eSize
  else if s.rangeFails then eRange
  else if s.overlapFails then eOverlap
  else 0

/-- The alignment class of a call (R64, R225), as the dispatcher computes it for `PATH`. -/
def State.alignClass (s : State) : Bool :=
  aligned s.src.toNat && aligned s.dst.toNat && aligned s.sstride.toNat && aligned s.dstride.toNat

end Sys2Proof.Machine
end

