-- ==== Sys2Proof/Machine/Dispatcher.lean ====
section
/-! DEFINITION. The entry point: `CONVERT`, and the refusal of a reserved command.

spec/44_dispatcher_host.md R221 to R225. -/

namespace Sys2Proof.Machine

/-- An accepted `CONVERT` starts the call (R222). -/
def State.startCall (s : State) : State :=
  { s with path := s.alignClass, row := 0, col := 0, tailf := false, sp := s.src, dp := s.dst, ph := .rchk }

/-- `CONVERT` in `IDLE` (R221, R222). -/
def convertIdle (s : State) : State :=
  if s.validate = 0 then s.clearRecord.startCall else s.clearRecord.raiseRefused s.validate

/-- `CONVERT` (R221, R222): processed in `IDLE`; in a running phase and in `FAULT` the write has no effect. -/
def execConvert (s : State) : Host.Outcome State Fault Refusal :=
  if s.ph = .idle then .next (convertIdle s) else .next s

/-- A reserved command word (R221, R224): `E_CMD` in `IDLE`, no effect otherwise. -/
def reservedCommand (s : State) : State :=
  if s.ph = .idle then s.clearRecord.raiseRefused eCmd else s

end Sys2Proof.Machine
end

