-- ==== Sys2Proof/Machine/Luma.lean ====
section
/-! DEFINITION. The pixel luma computer: `LUMA g`.

spec/40_luma_weighter.md R122 to R129. -/

namespace Sys2Proof.Machine

/-- `madd16(x, k)` (R122): the two products of the signed sub-lanes, as 32-bit numbers, and their sum.
Outside the ranges of R92 and R93 the spec gives no result; the sum is then the 32-bit one (DESIGN CHOICE,
unsafe, log 10), which needs an invalid configuration. -/
def madd16 (x k : Pair16) : Lane :=
  x.lo.signExtend 32 * k.lo.signExtend 32 + x.hi.signExtend 32 * k.hi.signExtend 32

/-- The five steps for one lane (R126). -/
def lumaLane (c : Config) (r g b : Byte) : Lane :=
  let p := madd16 (rbPair r b) (krbPair c)
  let q := madd16 (g0Pair g) (kg0Pair c)
  let sum := p + q
  let t := sum + BitVec.ofNat 32 c.round
  t >>> c.shift

/-- The four lanes of a group, each from the lane of the same number (R123, R129). -/
def lumaVec (c : Config) (v : ByteVec) : LaneVec :=
  Vector.ofFn fun i => lumaLane c (chanR v i) (chanG v i) (chanB v i)

/-- The phase after `LUMA g` (R129, R193). -/
def lumaNext (g : Fin 4) : Phase :=
  match g.val with
  | 0 => .lum1
  | 1 => .lum2
  | 2 => .lum3
  | _ => .pk

/-- `LUMA g` (R129). -/
def execLuma (g : Fin 4) (s : State) : Host.Outcome State Fault Refusal :=
  .next { s with lv := s.lv.set g.val (lumaVec s.cfg s.sv[g.val]), ph := lumaNext g }

end Sys2Proof.Machine
end

