-- ==== Sys2Proof/Machine/Pack.lean ====
section
/-! DEFINITION. The lane packer: `PACK`.

spec/41_lane_packer.md R150 to R154. -/

namespace Sys2Proof.Machine

/-- `satu8(x)` (R152). -/
def satu8 (x : Int) : Byte := if x < 0 then 0 else if 255 < x then 255 else BitVec.ofInt 8 x

/-- The output vector of four luma vectors (R153, R154): byte `4g + i` from lane `i` of group `g`, read as a
signed number (R151). -/
def packVec (lv : Vector LaneVec 4) : ByteVec :=
  Vector.ofFn fun k => satu8 (lv[k.val / 4])[k.val % 4].toInt

/-- `PACK` (R153). -/
def execPack (s : State) : Host.Outcome State Fault Refusal :=
  .next { s with ov := packVec s.lv, ph := .st }

end Sys2Proof.Machine
end

