-- ==== Sys2Proof/Machine/Sequencer.lean ====
section
/-! DEFINITION. The control micro-operations `RCHK`, `TCHK`, `RADV`, and the fetch function.

spec/43_tile_sequencer.md R191 to R197. -/

namespace Sys2Proof.Machine

/-- `RCHK` (R194). -/
def execRchk (s : State) : Host.Outcome State Fault Refusal :=
  if s.row = s.height then .next { s with done := true, ph := .idle }
  else .next { s with col := 0, tailf := false, ph := .tchk }

/-- `TCHK` (R195). `WIDTH - 16` is an `AW`-bit difference; R195 needs it only where `WIDTH >= 16` (log 11). -/
def execTchk (s : State) : Host.Outcome State Fault Refusal :=
  if s.col.toNat < awd s.width.toNat then .next { s with ph := .ld }
  else if awd s.width.toNat ≠ s.width.toNat then
    .next { s with col := wrap s.cfg (s.width.toNat + 2 ^ s.cfg.aw - 16), tailf := true, ph := .ld }
  else .next { s with ph := .radv }

/-- `RADV` (R196). -/
def execRadv (s : State) : Host.Outcome State Fault Refusal :=
  .next
    { s with
      sp := wrap s.cfg (s.sp.toNat + s.sstride.toNat)
      dp := wrap s.cfg (s.dp.toNat + s.dstride.toNat)
      row := wrap s.cfg (s.row.toNat + 1)
      ph := .rchk }

/-- The aligned variants are for the main tiles of the aligned path (R179, R191). -/
def State.useAligned (s : State) : Bool := s.path && !s.tailf

/-- The fetch function (R191): the word of the next micro-operation, a function of `PH`, `PATH`, `TAILF`
alone; none where the sequencer has no step. -/
def State.fetchWord (s : State) : Option (BitVec 8) :=
  match s.ph with
  | .idle => none
  | .rchk => some 0x10
  | .tchk => some 0x20
  | .ld => some (if s.useAligned then 0x38 else 0x30)
  | .lum0 => some 0x40
  | .lum1 => some 0x41
  | .lum2 => some 0x42
  | .lum3 => some 0x43
  | .pk => some 0x50
  | .st => some (if s.useAligned then 0x68 else 0x60)
  | .radv => some 0x70
  | .fault => none

end Sys2Proof.Machine
end

