-- ==== Sys2Proof/Machine/TileMem.lean ====
section
/-! DEFINITION. Tile load and tile store: `TLD.A`, `TLD.U`, `TST.A`, `TST.U`.

spec/42_tile_load_store.md R170 to R176. -/

namespace Sys2Proof.Machine

/-- The common part of `TLD` (R170). -/
def tileLoad (s : State) : Host.Outcome State Fault Refusal :=
  match s.readTile s.ta with
  | some v => .next { s with sv := v, ph := .lum0 }
  | none => .next (s.raiseFault eBus)

/-- `TLD.A` (R171): `AlignFault` before any access. -/
def execTldA (s : State) : Host.Outcome State Fault Refusal :=
  if aligned s.ta then tileLoad s else .next (s.raiseFault eAlign)

/-- `TLD.U` (R172). -/
def execTldU (s : State) : Host.Outcome State Fault Refusal := tileLoad s

/-- Where a store goes on (R174): the tail tile ends the row, a main tile is followed by the next column.
`COL + 16` is an `AW`-bit sum, which matters in no state a call reaches (log 11). -/
def State.afterStore (s : State) : State :=
  if s.tailf then { s with ph := .radv }
  else { s with col := wrap s.cfg (s.col.toNat + 16), ph := .tchk }

/-- The common part of `TST` (R174). -/
def tileStore (s : State) : Host.Outcome State Fault Refusal :=
  match s.memWrite s.da s.ov with
  | some m => .next { s with mem := m }.afterStore
  | none => .next (s.raiseFault eBus)

/-- `TST.A` (R175): `AlignFault` before the write. -/
def execTstA (s : State) : Host.Outcome State Fault Refusal :=
  if aligned s.da then tileStore s else .next (s.raiseFault eAlign)

/-- `TST.U` (R176). -/
def execTstU (s : State) : Host.Outcome State Fault Refusal := tileStore s

end Sys2Proof.Machine
end

