-- ==== Sys2Proof/Machine/Dispatch.lean ====
section
/-! DEFINITION. One arm per instruction, each a direct call of its meaning. -/

namespace Sys2Proof.Machine

def exec (i : Instr) (s : State) : Host.Outcome State Fault Refusal :=
  match i with
  | .convert => Sys2Proof.Machine.execConvert s
  | .rchk => Sys2Proof.Machine.execRchk s
  | .tchk => Sys2Proof.Machine.execTchk s
  | .tldU => Sys2Proof.Machine.execTldU s
  | .tldA => Sys2Proof.Machine.execTldA s
  | .luma g => Sys2Proof.Machine.execLuma g s
  | .pack => Sys2Proof.Machine.execPack s
  | .tstU => Sys2Proof.Machine.execTstU s
  | .tstA => Sys2Proof.Machine.execTstA s
  | .radv => Sys2Proof.Machine.execRadv s

end Sys2Proof.Machine
end

