-- ==== Sys2Proof/Machine/Agents.lean ====
section
/-! DEFINITION. What each agent does in one step, and whose step comes next.

spec/10_state.md R20, R21; spec/20_memory.md R77; spec/30_encoding.md R97, R98, R106;
spec/43_tile_sequencer.md R191; spec/44_dispatcher_host.md R221, R226 to R230. -/

namespace Sys2Proof.Machine

/-! ## The host register file -/

/-- `RD n` (R228): the constants of R33 are zero-extended, `CMD` and every number from 16 read 0. -/
def State.readReg (s : State) (n : Nat) : Word :=
  match n with
  | 0 => 0
  | 1 => s.status
  | 2 => s.src
  | 3 => s.srcLen
  | 4 => s.width
  | 5 => s.height
  | 6 => s.sstride
  | 7 => s.dst
  | 8 => s.dstLen
  | 9 => s.dstride
  | 10 => BitVec.ofNat 64 s.cfg.wr
  | 11 => BitVec.ofNat 64 s.cfg.wg
  | 12 => BitVec.ofNat 64 s.cfg.wb
  | 13 => BitVec.ofNat 64 s.cfg.shift
  | 14 => BitVec.ofNat 64 s.cfg.round
  | 15 => BitVec.ofNat 64 Config.tile
  | _ => 0

/-- The descriptor register `n` becomes `v` (R21); no other number names a register a write stores to
(R22, R23, R33, R98). -/
def State.setDescriptor (s : State) (n : Nat) (v : Word) : State :=
  match n with
  | 2 => { s with src := v }
  | 3 => { s with srcLen := v }
  | 4 => { s with width := v }
  | 5 => { s with height := v }
  | 6 => { s with sstride := v }
  | 7 => { s with dst := v }
  | 8 => { s with dstLen := v }
  | 9 => { s with dstride := v }
  | _ => s

/-- `WR CMD, v` (R221 to R224): the instruction the word decodes to, or the refusal of a reserved word. -/
def writeCommand (v : Word) (s : State) : Host.Outcome State Fault Refusal :=
  match decode (.command v) with
  | .instr i => exec i s
  | .reserved => .next (reservedCommand s)
  | .illegal => .refused .illegalWord

/-- `WR n, v` (R221, R226, R227). -/
def writeReg (n : Nat) (v : Word) (s : State) : Host.Outcome State Fault Refusal :=
  if n = 0 then writeCommand v s
  else if s.ph = .idle then .next (s.setDescriptor n v)
  else .next s

/-! ## The host's duty (R77) -/

/-- Address `a` lies in the source buffer (R26). -/
def State.inSource (s : State) (a : Nat) : Bool :=
  decide (s.src.toNat ≤ a) && decide (a < s.src.toNat + s.srcLen.toNat)

/-- Address `a` lies in the destination buffer (R31). -/
def State.inDest (s : State) (a : Nat) : Bool :=
  decide (s.dst.toNat ≤ a) && decide (a < s.dst.toNat + s.dstLen.toNat)

/-- A host write of address `a` breaks R77. -/
def State.writeBreaksDuty (s : State) (a : Nat) : Bool := s.busy && (s.inSource a || s.inDest a)

/-- A host read of address `a` breaks R77. -/
def State.readBreaksDuty (s : State) (a : Nat) : Bool := s.busy && s.inDest a

/-! ## One step of each agent -/

/-- One operation of the surroundings. `POLL` (R106) is one `RD STATUS`; it stays pending while the value
read has `BUSY = 1`. -/
def envOp (op : EnvOp) (s : State) : Host.Outcome State Fault Refusal :=
  match op with
  | .rd n => .next { s with reply := some (s.readReg n) }
  | .wr n v => if v.toNat < 2 ^ s.cfg.aw then writeReg n v s else .refused .valueTooWide
  | .poll =>
    .next { s with reply := some s.status, env := if s.busy then .poll :: s.env else s.env }
  | .memRd a =>
    if 2 ^ s.cfg.aw ≤ a then .fault .addressOutsideSpace
    else if s.readBreaksDuty a then .refused .hostDutyBroken
    else .next { s with reply := some ((Memory.read s.mem a).setWidth 64) }
  | .memWr a b =>
    if 2 ^ s.cfg.aw ≤ a then .fault .addressOutsideSpace
    else if s.writeBreaksDuty a then .refused .hostDutyBroken
    else .next { s with mem := Memory.write s.mem a b }
  | .back rs => .next { s with unbacked := rs }
  | .reset => .next s.resetEvent

/-- The surroundings' step: the first pending operation. -/
def envStep (s : State) : Host.Outcome State Fault Refusal :=
  match s.env with
  | [] => .fault .noStep
  | op :: ops => envOp op { s with env := ops }

/-- The sequencer's step (R191): take the word of the fetch function, execute its rule. -/
def sequencerStep (s : State) : Host.Outcome State Fault Refusal :=
  match s.fetchWord with
  | none => .fault .noStep
  | some w =>
    match decode (.micro w) with
    | .instr i => exec i s
    | .illegal => .refused .illegalWord
    | .reserved => .refused .illegalWord

/-- One step of an agent. -/
def agentStep (a : Agent) (s : State) : Host.Outcome State Fault Refusal :=
  match a with
  | .host => envStep s
  | .sequencer => sequencerStep s

/-! ## Whose step comes next (R229, R297; log 6) -/

/-- Whether an agent has a step: the surroundings have an operation pending; the phase is a running one
(R191). -/
def State.hasStep (s : State) : Agent → Bool
  | .host => !s.env.isEmpty
  | .sequencer => s.busy

/-- The agent that takes the next step and the turns that then remain: the first listed agent that has a step.
Past the end of the list the sequencer goes on while a call runs (the weak fairness of R297), and the
surroundings take their steps otherwise. -/
def nextTurn (s : State) : List Agent → Option (Agent × List Agent)
  | [] =>
    if s.hasStep .sequencer then some (.sequencer, [])
    else if s.hasStep .host then some (.host, [])
    else none
  | a :: rest => if s.hasStep a then some (a, rest) else nextTurn s rest

end Sys2Proof.Machine
end

