-- ==== Sys2Proof/Machine/Step.lean ====
section
/-! DEFINITION. One step of the machine, and where a word stands so that the next step runs it.

spec/00_scope.md R10, R15; spec/43_tile_sequencer.md R191; spec/44_dispatcher_host.md R229. -/

namespace Sys2Proof.Machine

/-- One atomic transition (R15): a step of the agent whose turn it is. A configuration that breaks R10 or
R12 is refused. -/
def step (s : State) : Host.Outcome State Fault Refusal :=
  if s.cfg.valid then
    match nextTurn s s.turns with
    | some (a, rest) => agentStep a { s with turns := rest }
    | none => .fault .noStep
  else .refused .invalidConfig

/-- `s` with a word standing where `step` takes its next instruction from. A micro-operation word is
computed from `PH`, `PATH`, `TAILF` (R191): they take values at which the fetch function gives it, and the
sequencer has the turn. A command word is the next `WR CMD` of the host (R103), which has the turn. A word
that is no instruction stands nowhere, and `s` is unchanged (log 16). -/
def State.withFetchWord (s : State) (nbits w : Nat) : State :=
  match decodeTableWord nbits w with
  | none => s
  | some .convert => { s with env := .wr 0 (BitVec.ofNat 64 w) :: s.env, turns := .host :: s.turns }
  | some .rchk => { s with ph := .rchk, turns := .sequencer :: s.turns }
  | some .tchk => { s with ph := .tchk, turns := .sequencer :: s.turns }
  | some .tldU => { s with ph := .ld, path := s.path && s.tailf, turns := .sequencer :: s.turns }
  | some .tldA => { s with ph := .ld, path := true, tailf := false, turns := .sequencer :: s.turns }
  | some (.luma g) =>
    { s with
      ph := (match g.val with | 0 => .lum0 | 1 => .lum1 | 2 => .lum2 | _ => .lum3)
      turns := .sequencer :: s.turns }
  | some .pack => { s with ph := .pk, turns := .sequencer :: s.turns }
  | some .tstU => { s with ph := .st, path := s.path && s.tailf, turns := .sequencer :: s.turns }
  | some .tstA => { s with ph := .st, path := true, tailf := false, turns := .sequencer :: s.turns }
  | some .radv => { s with ph := .radv, turns := .sequencer :: s.turns }

end Sys2Proof.Machine
end

