-- ==== Sys2Proof/Safety.lean ====
section
/-! DEFINITION. The terms claims are stated in: what a call computes, which bytes it touches, and what holds in
every state of a run.

spec/10_state.md R23; spec/20_memory.md R66 to R68; spec/40_luma_weighter.md R128;
spec/43_tile_sequencer.md R199 to R205. -/

namespace Sys2Proof.Machine

/-! ## What a call computes -/

/-- `luma(R, G, B)` on mathematical integers (R128). -/
def lumaNat (c : Config) (r g b : Nat) : Nat :=
  (r * c.wr + g * c.wg + b * c.wb + 2 ^ (c.shift - 1)) / 2 ^ c.shift

/-- The gray value of source pixel `(r, c)` in memory `m`, under the descriptor of `s` (R60, R205). -/
def State.grayOf (s : State) (m : Memory) (r c : Nat) : Nat :=
  let a := s.src.toNat + r * s.sstride.toNat + 4 * c
  lumaNat s.cfg (Memory.read m a).toNat (Memory.read m (a + 1)).toNat (Memory.read m (a + 2)).toNat

/-- The address of destination pixel `(r, c)` (R60). -/
def State.destAddr (s : State) (r c : Nat) : Nat := s.dst.toNat + r * s.dstride.toNat + c

/-- The write footprint of a call (R67). -/
def State.writes (s : State) (a : Nat) : Prop :=
  ∃ r c, r < s.height.toNat ∧ c < s.width.toNat ∧ a = s.destAddr r c

/-- Every byte of both footprints is backed (R66, R67, R205). -/
def State.footprintsBacked (s : State) : Prop :=
  (∀ r < s.height.toNat, ∀ j < 4 * s.width.toNat, s.memok (s.src.toNat + r * s.sstride.toNat + j) = true)
    ∧ ∀ r < s.height.toNat, ∀ c < s.width.toNat, s.memok (s.destAddr r c) = true

/-- Main tiles of a row (R201). -/
def mainTiles (w : Nat) : Nat := w / 16

/-- Tiles of a row (R201). -/
def rowTiles (w : Nat) : Nat := mainTiles w + (if w % 16 = 0 then 0 else 1)

/-- The sequencer steps of a call that completes (R202). -/
def callSteps (w h : Nat) : Nat := h * (mainTiles w + 3 + 7 * rowTiles w) + 1

/-! ## What holds in every state of a run -/

/-- Every register holds an `AW`-bit value (R21, R39, R40). -/
abbrev State.regsFit (s : State) : Prop :=
  s.src.toNat < 2 ^ s.cfg.aw ∧ s.srcLen.toNat < 2 ^ s.cfg.aw ∧ s.width.toNat < 2 ^ s.cfg.aw
    ∧ s.height.toNat < 2 ^ s.cfg.aw ∧ s.sstride.toNat < 2 ^ s.cfg.aw ∧ s.dst.toNat < 2 ^ s.cfg.aw
    ∧ s.dstLen.toNat < 2 ^ s.cfg.aw ∧ s.dstride.toNat < 2 ^ s.cfg.aw ∧ s.row.toNat < 2 ^ s.cfg.aw
    ∧ s.col.toNat < 2 ^ s.cfg.aw ∧ s.sp.toNat < 2 ^ s.cfg.aw ∧ s.dp.toNat < 2 ^ s.cfg.aw

/-- Memory is in canonical form and lists only addresses of the space (R60). -/
abbrev State.memFits (s : State) : Prop :=
  Memory.wf s.mem = true ∧ ∀ c ∈ s.mem, c.1 < 2 ^ s.cfg.aw

/-- The legal combinations of the status bits (R23), the faulted one without `E_ALIGN` (R203). -/
abbrev State.statusLegal (s : State) : Prop :=
  (s.busy = true → s.done = false ∧ s.err = false ∧ s.ecode = 0)
    ∧ (s.ph = .idle → s.err = false → s.ecode = 0)
    ∧ (s.ph = .idle → s.err = true → s.done = false ∧ 1 ≤ s.ecode.toNat ∧ s.ecode.toNat ≤ 7)
    ∧ (s.ph = .fault → s.done = false ∧ s.err = true ∧ s.ecode = eBus)

/-- The current tile is loaded, computed, packed or stored: phases `LD` to `ST`. -/
def Phase.inTile : Phase → Bool
  | .idle => false
  | .rchk => false
  | .tchk => false
  | .ld => true
  | .lum0 => true
  | .lum1 => true
  | .lum2 => true
  | .lum3 => true
  | .pk => true
  | .st => true
  | .radv => false
  | .fault => false

/-- Row pointers of a running call (R199), over a descriptor that passed validation (R223) and a `PATH` that
is its alignment class (R225). -/
abbrev State.rowsOk (s : State) : Prop :=
  s.busy = true →
    s.validate = 0 ∧ s.path = s.alignClass
      ∧ s.row.toNat ≤ s.height.toNat ∧ (s.ph ≠ .rchk → s.row.toNat < s.height.toNat)
      ∧ s.sp.toNat = (s.src.toNat + s.row.toNat * s.sstride.toNat) % 2 ^ s.cfg.aw
      ∧ s.dp.toNat = (s.dst.toNat + s.row.toNat * s.dstride.toNat) % 2 ^ s.cfg.aw

/-- Columns of a running call (R200). -/
abbrev State.colsOk (s : State) : Prop :=
  (s.ph.inTile = true → s.tailf = false → s.col.toNat % 16 = 0 ∧ s.col.toNat + 16 ≤ awd s.width.toNat)
    ∧ (s.ph.inTile = true → s.tailf = true → s.col.toNat + 16 = s.width.toNat ∧ s.width.toNat % 16 ≠ 0)
    ∧ (s.ph = .tchk → s.tailf = false ∧ s.col.toNat % 16 = 0 ∧ s.col.toNat ≤ awd s.width.toNat)

/-- The invariant of every run: a valid configuration (R10, R12) and all of the above. -/
abbrev State.Inv (s : State) : Prop :=
  s.cfg.valid = true ∧ s.regsFit ∧ s.memFits ∧ s.statusLegal ∧ s.rowsOk ∧ s.colsOk

/-! ## Views for comparing two runs -/

/-- What the control flow of a call may depend on (R204): every piece of state but the bytes of memory, the
vector registers and the weights. -/
def State.controlView (s : State) : State :=
  { s with
    cfg := { s.cfg with wr := 0, wg := 0, wb := 0, shift := 0 }
    sv := State.reset.sv
    lv := State.reset.lv
    ov := State.reset.ov
    mem := [] }

/-- The two states a step leads from and to, in outcomes of the same kind, related by `R`. -/
def outcomesRelated (R : State → State → Prop) :
    Host.Outcome State Fault Refusal → Host.Outcome State Fault Refusal → Prop
  | .next s, .next t => R s t
  | .fault a, .fault b => a = b
  | .refused a, .refused b => a = b
  | _, _ => False

end Sys2Proof.Machine
end

