-- ==== Sys2Proof/Certificates/Slice0/Obligations.lean ====
section
/-! DEFINITION. The statements for the provers, from the numbered rules of spec/. -/

open Sys2Proof Sys2Proof.Machine

/-! ## Encoding -/

/-- A word decodes to an instruction exactly when it is the word of that instruction, in both formats and for
every word (R101 to R103). -/
def Obligations.DecodeInvertsEncode : Prop :=
  ∀ (w : CodeWord) (i : Instr), decode w = .instr i ↔ encode i = w

/-- The legal micro-operation words, by their fields and one by one (R102). -/
def Obligations.LegalMicroWords : Prop :=
  ∀ w : BitVec 8,
    (decode (.micro w) ≠ .illegal ↔
      w.getLsbD 2 = false ∧ 1 ≤ w.toNat / 16 ∧ w.toNat / 16 ≤ 7
        ∧ (w.getLsbD 3 = true → w.toNat / 16 = 3 ∨ w.toNat / 16 = 6)
        ∧ (w.toNat % 4 ≠ 0 → w.toNat / 16 = 4))
    ∧ (decode (.micro w) ≠ .illegal ↔
      w ∈ [0x10, 0x20, 0x30, 0x38, 0x40, 0x41, 0x42, 0x43, 0x50, 0x60, 0x68, 0x70])

/-- Words written out from R101 and R103 decode to what they stand for. -/
def Obligations.WrittenWordsDecode : Prop :=
  decode (.command 1) = .instr .convert ∧ decode (.micro 0b00010000) = .instr .rchk
    ∧ decode (.micro 0b00111000) = .instr .tldA ∧ decode (.micro 0b01000010) = .instr (.luma 2)
    ∧ decode (.micro 0b01010000) = .instr .pack ∧ decode (.micro 0b01100000) = .instr .tstU

/-! ## Steps -/

/-- A step of the sequencer is `exec` of the instruction the fetched word decodes to, in the state whose turns
have moved on (R191); a `WR CMD` of the host is `exec` of the instruction the command word decodes to, in the
state in which that access is no longer pending (R103, R221). `env` and `turns` are the model's (log 6). -/
def Obligations.StepRunsDecodedInstruction : Prop :=
  ∀ (s : State) (i : Instr) (rest : List Agent), s.cfg.valid = true →
    (∀ w, nextTurn s s.turns = some (.sequencer, rest) → s.fetchWord = some w →
      decode (.micro w) = .instr i → step s = exec i { s with turns := rest })
    ∧ ∀ v ops, nextTurn s s.turns = some (.host, rest) → s.env = .wr 0 v :: ops →
      v.toNat < 2 ^ s.cfg.aw → decode (.command v) = .instr i →
      step s = exec i { s with turns := rest, env := ops }

/-- A word of the opcode table placed in a state is what the next step runs (log 16). -/
def Obligations.PlacedWordRunsNext : Prop :=
  ∀ (s : State) (nbits w : Nat) (i : Instr), s.cfg.valid = true → decodeTableWord nbits w = some i →
    step (s.withFetchWord nbits w)
      = exec i { s.withFetchWord nbits w with env := s.env, turns := s.turns }

/-- The fetch function reads `PH`, `PATH`, `TAILF` and nothing else, and issues the micro-operation of R191's
table; with no turn listed the sequencer steps in every running phase. -/
def Obligations.FetchTable : Prop :=
  (∀ s t : State, s.ph = t.ph → s.path = t.path → s.tailf = t.tailf → s.fetchWord = t.fetchWord)
    ∧ ∀ s : State, s.cfg.valid = true → s.turns = [] →
      (s.ph = .rchk → s.fetchWord = some 0x10 ∧ step s = exec .rchk s)
      ∧ (s.ph = .tchk → s.fetchWord = some 0x20 ∧ step s = exec .tchk s)
      ∧ (s.ph = .ld → s.path = true ∧ s.tailf = false → s.fetchWord = some 0x38 ∧ step s = exec .tldA s)
      ∧ (s.ph = .ld → ¬(s.path = true ∧ s.tailf = false) → s.fetchWord = some 0x30 ∧ step s = exec .tldU s)
      ∧ (s.ph = .lum0 → s.fetchWord = some 0x40 ∧ step s = exec (.luma 0) s)
      ∧ (s.ph = .lum1 → s.fetchWord = some 0x41 ∧ step s = exec (.luma 1) s)
      ∧ (s.ph = .lum2 → s.fetchWord = some 0x42 ∧ step s = exec (.luma 2) s)
      ∧ (s.ph = .lum3 → s.fetchWord = some 0x43 ∧ step s = exec (.luma 3) s)
      ∧ (s.ph = .pk → s.fetchWord = some 0x50 ∧ step s = exec .pack s)
      ∧ (s.ph = .st → s.path = true ∧ s.tailf = false → s.fetchWord = some 0x68 ∧ step s = exec .tstA s)
      ∧ (s.ph = .st → ¬(s.path = true ∧ s.tailf = false) → s.fetchWord = some 0x60 ∧ step s = exec .tstU s)
      ∧ (s.ph = .radv → s.fetchWord = some 0x70 ∧ step s = exec .radv s)

/-- In every running phase the sequencer has a step, and it never stops the machine (R209). -/
def Obligations.RunningPhasesAlwaysStep : Prop :=
  ∀ s : State, s.cfg.valid = true → s.turns = [] → s.busy = true → ∃ t, step s = .next t ∧ t.env = s.env

/-- In `IDLE` and in `FAULT` with nothing pending outside there is no step (R191, R276); that this is the named
stop `noStep` is the model's (log 14). -/
def Obligations.NothingPendingNoStep : Prop :=
  ∀ s : State, s.cfg.valid = true → (s.ph = .idle ∨ s.ph = .fault) → s.env = [] →
    step s = .fault .noStep

/-- An invalid configuration is refused (R10, R12). -/
def Obligations.InvalidConfigRefused : Prop :=
  ∀ s : State,
    ¬((1 ≤ s.cfg.shift ∧ s.cfg.shift ≤ 15) ∧ (s.cfg.wr ≤ 32767 ∧ s.cfg.wg ≤ 32767 ∧ s.cfg.wb ≤ 32767)
        ∧ s.cfg.wr + s.cfg.wg + s.cfg.wb ≤ 2 ^ s.cfg.shift
        ∧ 2 ^ s.cfg.shift - 2 ^ (s.cfg.shift - 1) / 255 ≤ s.cfg.wr + s.cfg.wg + s.cfg.wb
        ∧ 16 ≤ s.cfg.aw ∧ s.cfg.aw ≤ 64) →
      step s = .refused .invalidConfig

/-! ## CONVERT -/

/-- An accepted `CONVERT` (R222): the record cleared, `PATH` the alignment class, the loop registers set, the
call running, and nothing else changed. -/
def Obligations.ConvertAcceptedStartsCall : Prop :=
  ∀ s : State, s.ph = .idle → s.validate = 0 →
    exec .convert s = .next
      { s with
        done := false
        err := false
        ecode := 0
        path := decide (s.src.toNat % 16 = 0 ∧ s.dst.toNat % 16 = 0 ∧ s.sstride.toNat % 16 = 0
          ∧ s.dstride.toNat % 16 = 0)
        row := 0
        col := 0
        tailf := false
        sp := s.src
        dp := s.dst
        ph := .rchk }

/-- A refused `CONVERT` records the code and changes nothing else; `STATUS` then reads `0x004 + 0x100*code`,
plus `0x10` if `PATH` is 1 (R263). -/
def Obligations.ConvertRefusedRecordsCode : Prop :=
  ∀ s : State, s.ph = .idle → s.validate ≠ 0 →
    ∃ t, exec .convert s = .next t
      ∧ t = { s with done := false, err := true, ecode := s.validate }
      ∧ t.status.toNat = 0x004 + 0x100 * s.validate.toNat + (if s.path = true then 0x10 else 0)

/-- `validate()` returns the code of the first failing check, on mathematical integers (R223, R268). -/
def Obligations.ValidateReportsFirstFailure : Prop :=
  ∀ s : State, s.validate =
    if s.src.toNat = 0 ∨ s.dst.toNat = 0 then 2
    else if s.width.toNat < 16 then 3
    else if s.sstride.toNat < 4 * s.width.toNat ∨ s.dstride.toNat < s.width.toNat then 4
    else if s.srcLen.toNat < s.height.toNat * s.sstride.toNat
        ∨ s.dstLen.toNat < s.height.toNat * s.dstride.toNat then 5
    else if s.src.toNat + s.srcLen.toNat > 2 ^ s.cfg.aw ∨ s.dst.toNat + s.dstLen.toNat > 2 ^ s.cfg.aw then 6
    else if s.srcLen.toNat > 0 ∧ s.dstLen.toNat > 0 ∧ s.src.toNat < s.dst.toNat + s.dstLen.toNat
        ∧ s.dst.toNat < s.src.toNat + s.srcLen.toNat then 7
    else 0

/-- A `CONVERT` starts a call exactly when it is written in `IDLE` and no check fails (R221 to R223). -/
def Obligations.CallStartsExactlyWhenValid : Prop :=
  ∀ s : State, s.ph ≠ .rchk →
    ((∃ t, exec .convert s = .next t ∧ t.ph = .rchk) ↔
      s.ph = .idle ∧ s.src ≠ 0 ∧ s.dst ≠ 0 ∧ 16 ≤ s.width.toNat
        ∧ 4 * s.width.toNat ≤ s.sstride.toNat ∧ s.width.toNat ≤ s.dstride.toNat
        ∧ s.height.toNat * s.sstride.toNat ≤ s.srcLen.toNat
        ∧ s.height.toNat * s.dstride.toNat ≤ s.dstLen.toNat
        ∧ s.src.toNat + s.srcLen.toNat ≤ 2 ^ s.cfg.aw ∧ s.dst.toNat + s.dstLen.toNat ≤ 2 ^ s.cfg.aw
        ∧ (s.srcLen.toNat = 0 ∨ s.dstLen.toNat = 0 ∨ s.dst.toNat + s.dstLen.toNat ≤ s.src.toNat
          ∨ s.src.toNat + s.srcLen.toNat ≤ s.dst.toNat))

/-- A command written in a running phase or in `FAULT` has no effect at all (R221). -/
def Obligations.CommandsIgnoredOutsideIdle : Prop :=
  ∀ (s : State) (v : Word), s.ph ≠ .idle → exec .convert s = .next s ∧ writeReg 0 v s = .next s

/-- Every command word but 1 is reserved (R103), and refused with `E_CMD` in `IDLE` (R224). -/
def Obligations.ReservedCommandRefused : Prop :=
  ∀ (s : State) (v : Word), v ≠ 1 →
    decode (.command v) = .reserved
      ∧ (s.ph = .idle → writeReg 0 v s = .next { s with done := false, err := true, ecode := 1 })

/-! ## The control micro-operations -/

/-- `RCHK` (R194). -/
def Obligations.RchkStartsRowOrEndsCall : Prop :=
  ∀ s : State,
    (s.row = s.height → exec .rchk s = .next { s with done := true, ph := .idle })
    ∧ (s.row ≠ s.height → exec .rchk s = .next { s with col := 0, tailf := false, ph := .tchk })

/-- `TCHK` (R195), `awd(WIDTH)` being `16 * floor(WIDTH / 16)` (R192). The second arm needs `WIDTH >= 16`, which
validation gives. -/
def Obligations.TchkChoosesTile : Prop :=
  ∀ s : State, s.cfg.valid = true → s.width.toNat < 2 ^ s.cfg.aw →
    (s.col.toNat < 16 * (s.width.toNat / 16) → exec .tchk s = .next { s with ph := .ld })
    ∧ (16 * (s.width.toNat / 16) ≤ s.col.toNat → 16 * (s.width.toNat / 16) ≠ s.width.toNat →
      16 ≤ s.width.toNat →
      exec .tchk s = .next { s with col := s.width - 16, tailf := true, ph := .ld })
    ∧ (16 * (s.width.toNat / 16) ≤ s.col.toNat → 16 * (s.width.toNat / 16) = s.width.toNat →
      exec .tchk s = .next { s with ph := .radv })

/-- `RADV` (R196). -/
def Obligations.RadvAdvancesRow : Prop :=
  ∀ s : State, s.cfg.valid = true →
    ∃ t, exec .radv s = .next t
      ∧ t.sp.toNat = (s.sp.toNat + s.sstride.toNat) % 2 ^ s.cfg.aw
      ∧ t.dp.toNat = (s.dp.toNat + s.dstride.toNat) % 2 ^ s.cfg.aw
      ∧ (s.row.toNat + 1 < 2 ^ s.cfg.aw → t.row.toNat = s.row.toNat + 1)
      ∧ t = { s with sp := t.sp, dp := t.dp, row := t.row, ph := .rchk }

/-! ## Tile load and store -/

/-- `TLD.U` (R170, R172): 64 backed bytes at `TA` become the four source vectors, at any `TA`. -/
def Obligations.UnalignedLoadReadsTile : Prop :=
  ∀ s : State,
    (∀ j < 64, s.memok ((s.sp.toNat + 4 * s.col.toNat) % 2 ^ s.cfg.aw + j) = true) →
    ∃ t, exec .tldU s = .next t
      ∧ (∀ (g : Fin 4) (k : Fin 16), (t.sv[g.val])[k.val]
          = Memory.read s.mem ((s.sp.toNat + 4 * s.col.toNat) % 2 ^ s.cfg.aw + 16 * g.val + k.val))
      ∧ t = { s with sv := t.sv, ph := .lum0 }

/-- `TLD.A` (R170, R171): the same at a `TA` that is a multiple of 16. -/
def Obligations.AlignedLoadReadsTile : Prop :=
  ∀ s : State,
    (s.sp.toNat + 4 * s.col.toNat) % 2 ^ s.cfg.aw % 16 = 0 →
    (∀ j < 64, s.memok ((s.sp.toNat + 4 * s.col.toNat) % 2 ^ s.cfg.aw + j) = true) →
    ∃ t, exec .tldA s = .next t
      ∧ (∀ (g : Fin 4) (k : Fin 16), (t.sv[g.val])[k.val]
          = Memory.read s.mem ((s.sp.toNat + 4 * s.col.toNat) % 2 ^ s.cfg.aw + 16 * g.val + k.val))
      ∧ t = { s with sv := t.sv, ph := .lum0 }

/-- `TST.U` (R174, R176): the output vector goes to the 16 backed bytes at `DA`, and the tail flag chooses what
follows. Memory is assumed canonical, which every step keeps (`MemoryStaysCanonical`). -/
def Obligations.UnalignedStoreWritesTile : Prop :=
  ∀ s : State, s.cfg.valid = true → Memory.wf s.mem = true →
    (∀ j < 16, s.memok ((s.dp.toNat + s.col.toNat) % 2 ^ s.cfg.aw + j) = true) →
    ∃ t, exec .tstU s = .next t
      ∧ (∀ k : Fin 16,
          Memory.read t.mem ((s.dp.toNat + s.col.toNat) % 2 ^ s.cfg.aw + k.val) = s.ov[k.val])
      ∧ (∀ a, a < (s.dp.toNat + s.col.toNat) % 2 ^ s.cfg.aw
          ∨ (s.dp.toNat + s.col.toNat) % 2 ^ s.cfg.aw + 16 ≤ a → Memory.read t.mem a = Memory.read s.mem a)
      ∧ (s.tailf = true → t = { s with mem := t.mem, ph := .radv })
      ∧ (s.tailf = false → t = { s with mem := t.mem, col := t.col, ph := .tchk })
      ∧ (s.tailf = false → s.col.toNat + 16 < 2 ^ s.cfg.aw → t.col.toNat = s.col.toNat + 16)

/-- `TST.A` (R174, R175): the same at a `DA` that is a multiple of 16. -/
def Obligations.AlignedStoreWritesTile : Prop :=
  ∀ s : State, s.cfg.valid = true → Memory.wf s.mem = true →
    (s.dp.toNat + s.col.toNat) % 2 ^ s.cfg.aw % 16 = 0 →
    (∀ j < 16, s.memok ((s.dp.toNat + s.col.toNat) % 2 ^ s.cfg.aw + j) = true) →
    ∃ t, exec .tstA s = .next t
      ∧ (∀ k : Fin 16,
          Memory.read t.mem ((s.dp.toNat + s.col.toNat) % 2 ^ s.cfg.aw + k.val) = s.ov[k.val])
      ∧ (∀ a, a < (s.dp.toNat + s.col.toNat) % 2 ^ s.cfg.aw
          ∨ (s.dp.toNat + s.col.toNat) % 2 ^ s.cfg.aw + 16 ≤ a → Memory.read t.mem a = Memory.read s.mem a)
      ∧ (s.tailf = true → t = { s with mem := t.mem, ph := .radv })
      ∧ (s.tailf = false → t = { s with mem := t.mem, col := t.col, ph := .tchk })
      ∧ (s.tailf = false → s.col.toNat + 16 < 2 ^ s.cfg.aw → t.col.toNat = s.col.toNat + 16)

/-- An aligned variant at an address that is not a multiple of 16 raises `AlignFault`, whatever is backed, and
has no other effect (R264, R266). -/
def Obligations.MisalignedAccessRaisesAlignFault : Prop :=
  ∀ s : State,
    ((s.sp.toNat + 4 * s.col.toNat) % 2 ^ s.cfg.aw % 16 ≠ 0 →
      exec .tldA s = .next { s with ph := .fault, err := true, ecode := 8, done := false })
    ∧ ((s.dp.toNat + s.col.toNat) % 2 ^ s.cfg.aw % 16 ≠ 0 →
      exec .tstA s = .next { s with ph := .fault, err := true, ecode := 8, done := false })

/-- An access one of whose bytes is not `MEMOK` raises `BusFault`: nothing is loaded and nothing stored, not even
the backed bytes (R62, R265, R266). -/
def Obligations.UnbackedAccessRaisesBusFault : Prop :=
  ∀ (s : State) (j : Nat),
    (j < 64 → s.memok ((s.sp.toNat + 4 * s.col.toNat) % 2 ^ s.cfg.aw + j) = false →
      exec .tldU s = .next { s with ph := .fault, err := true, ecode := 9, done := false }
      ∧ ((s.sp.toNat + 4 * s.col.toNat) % 2 ^ s.cfg.aw % 16 = 0 →
        exec .tldA s = .next { s with ph := .fault, err := true, ecode := 9, done := false }))
    ∧ (j < 16 → s.memok ((s.dp.toNat + s.col.toNat) % 2 ^ s.cfg.aw + j) = false →
      exec .tstU s = .next { s with ph := .fault, err := true, ecode := 9, done := false }
      ∧ ((s.dp.toNat + s.col.toNat) % 2 ^ s.cfg.aw % 16 = 0 →
        exec .tstA s = .next { s with ph := .fault, err := true, ecode := 9, done := false }))

/-- At an aligned address the two variants do the same (R173, R177). -/
def Obligations.AlignedVariantsAgree : Prop :=
  ∀ s : State,
    ((s.sp.toNat + 4 * s.col.toNat) % 2 ^ s.cfg.aw % 16 = 0 → exec .tldA s = exec .tldU s)
    ∧ ((s.dp.toNat + s.col.toNat) % 2 ^ s.cfg.aw % 16 = 0 → exec .tstA s = exec .tstU s)

/-! ## LUMA and PACK -/

/-- `LUMA g` (R126, R128, R129): every lane of `LV[g]` is `floor((R*WR + G*WG + B*WB + ROUND) / 2^SHIFT)` of its
own pixel, and nothing else but `PH` changes. -/
def Obligations.LumaComputesFormula : Prop :=
  ∀ (s : State) (g : Fin 4), s.cfg.valid = true →
    ∃ t, exec (.luma g) s = .next t
      ∧ (∀ i : Fin 4, ((t.lv[g.val])[i.val]).toNat
          = (((s.sv[g.val])[4 * i.val]).toNat * s.cfg.wr + ((s.sv[g.val])[4 * i.val + 1]).toNat * s.cfg.wg
              + ((s.sv[g.val])[4 * i.val + 2]).toNat * s.cfg.wb + 2 ^ (s.cfg.shift - 1)) / 2 ^ s.cfg.shift)
      ∧ (∀ g' : Fin 4, g' ≠ g → t.lv[g'.val] = s.lv[g'.val])
      ∧ t = { s with
              lv := t.lv
              ph := if g = 0 then .lum1 else if g = 1 then .lum2 else if g = 2 then .lum3 else .pk }

/-- Under every valid configuration every lane `LUMA` writes is in 0 to 255 (R127). -/
def Obligations.LumaNeverExceeds255 : Prop :=
  ∀ (s t : State) (g i : Fin 4), s.cfg.valid = true → exec (.luma g) s = .next t →
    ((t.lv[g.val])[i.val]).toNat ≤ 255

/-- Alpha is discarded: source vectors that differ only in A bytes give the same lanes (R124, R128). -/
def Obligations.LumaIgnoresAlpha : Prop :=
  ∀ (s : State) (v : Vector ByteVec 4) (g : Fin 4),
    (∀ i : Fin 4, (v[g.val])[4 * i.val] = (s.sv[g.val])[4 * i.val]
      ∧ (v[g.val])[4 * i.val + 1] = (s.sv[g.val])[4 * i.val + 1]
      ∧ (v[g.val])[4 * i.val + 2] = (s.sv[g.val])[4 * i.val + 2]) →
    ∃ t, exec (.luma g) s = .next t ∧ exec (.luma g) { s with sv := v } = .next { t with sv := v }

/-- The result is the weighted sum divided by `2^SHIFT`, rounded to the nearest integer, halves up (R131). -/
def Obligations.LumaRoundsToNearest : Prop :=
  ∀ (s t : State) (g i : Fin 4), s.cfg.valid = true → exec (.luma g) s = .next t →
    let sum := ((s.sv[g.val])[4 * i.val]).toNat * s.cfg.wr + ((s.sv[g.val])[4 * i.val + 1]).toNat * s.cfg.wg
      + ((s.sv[g.val])[4 * i.val + 2]).toNat * s.cfg.wb
    let l := ((t.lv[g.val])[i.val]).toNat
    2 * l * 2 ^ s.cfg.shift ≤ 2 * sum + 2 ^ s.cfg.shift
      ∧ 2 * sum + 2 ^ s.cfg.shift < 2 * (l + 1) * 2 ^ s.cfg.shift

/-- Corner cases of R129: black gives 0, white gives 255 for every valid configuration, and weights that sum to
`2^SHIFT` map every gray to itself. -/
def Obligations.LumaOfGrayPixels : Prop :=
  ∀ (s t : State) (g i : Fin 4) (x : Byte), s.cfg.valid = true → exec (.luma g) s = .next t →
    (s.sv[g.val])[4 * i.val] = x → (s.sv[g.val])[4 * i.val + 1] = x → (s.sv[g.val])[4 * i.val + 2] = x →
    (x = 0 → (t.lv[g.val])[i.val] = 0) ∧ (x = 255 → (t.lv[g.val])[i.val] = 255)
      ∧ (s.cfg.wr + s.cfg.wg + s.cfg.wb = 2 ^ s.cfg.shift → ((t.lv[g.val])[i.val]).toNat = x.toNat)

/-- `PACK` (R151 to R154): byte `4g + i` is lane `i` of group `g`, read as signed, clamped to 0 to 255. -/
def Obligations.PackClampsInPixelOrder : Prop :=
  ∀ s : State, ∃ t, exec .pack s = .next t
    ∧ (∀ g i : Fin 4, ((t.ov[4 * g.val + i.val]).toNat : Int)
        = min (max ((s.lv[g.val])[i.val]).toInt 0) 255)
    ∧ t = { s with ov := t.ov, ph := .st }

/-- On lanes in 0 to 255 `PACK` is the identity on values (R155). -/
def Obligations.PackKeepsByteLanes : Prop :=
  ∀ s t : State, (∀ g i : Fin 4, ((s.lv[g.val])[i.val]).toNat ≤ 255) → exec .pack s = .next t →
    ∀ g i : Fin 4, t.ov[4 * g.val + i.val] = ((s.lv[g.val])[i.val]).extractLsb' 0 8

/-- One tile: the seven micro-operations from `LD` store the gray values of the 16 pixels at `TA` to the 16 bytes
at `DA` and change no other byte (R193, R128, R155). On the aligned path both addresses are multiples of 16,
which `AlignedVariantsNeverFault` gives for every run. -/
def Obligations.TileStoresGrayValues : Prop :=
  ∀ s : State, s.cfg.valid = true → Memory.wf s.mem = true → s.ph = .ld → s.turns = [] →
    (s.path = true ∧ s.tailf = false → s.ta % 16 = 0 ∧ s.da % 16 = 0) →
    (∀ j < 64, s.memok (s.ta + j) = true) → (∀ j < 16, s.memok (s.da + j) = true) →
    ∃ t : State, Host.Core.run Sys2Proof.core 7 s = .next t
      ∧ (∀ k < 16, (Memory.read t.mem (s.da + k)).toNat
          = lumaNat s.cfg (Memory.read s.mem (s.ta + 4 * k)).toNat
              (Memory.read s.mem (s.ta + 4 * k + 1)).toNat (Memory.read s.mem (s.ta + 4 * k + 2)).toNat)
      ∧ (∀ a, a < s.da ∨ s.da + 16 ≤ a → Memory.read t.mem a = Memory.read s.mem a)
      ∧ (t.ph = if s.tailf = true then .radv else .tchk)

/-! ## Frames -/

/-- `RCHK`, `TCHK`, `RADV` touch no memory, no vector register, no descriptor register and no status bit but the
`DONE` of `RCHK`; only `RADV` moves the row, only `RCHK` and `TCHK` the column and the tail flag (R194 to
R196). -/
def Obligations.ControlFrame : Prop :=
  ∀ (s t : State) (i : Instr), i = .rchk ∨ i = .tchk ∨ i = .radv → exec i s = .next t →
    t = { s with
          done := t.done, ph := t.ph, row := t.row, col := t.col, sp := t.sp, dp := t.dp, tailf := t.tailf }
    ∧ (i ≠ .rchk → t.done = s.done)
    ∧ (i ≠ .radv → t.row = s.row ∧ t.sp = s.sp ∧ t.dp = s.dp)
    ∧ (i = .radv → t.col = s.col ∧ t.tailf = s.tailf)
    ∧ ∀ a, Memory.read t.mem a = Memory.read s.mem a

/-- `LUMA g` and `PACK` change their destination vector and `PH`, no flag and no byte of memory (R45, R129,
R153). -/
def Obligations.ComputeFrame : Prop :=
  ∀ (s t : State) (g : Fin 4),
    (exec (.luma g) s = .next t →
      t = { s with lv := t.lv, ph := t.ph } ∧ (∀ g' : Fin 4, g' ≠ g → t.lv[g'.val] = s.lv[g'.val])
        ∧ ∀ a, Memory.read t.mem a = Memory.read s.mem a)
    ∧ (exec .pack s = .next t →
      t = { s with ov := t.ov, ph := t.ph } ∧ ∀ a, Memory.read t.mem a = Memory.read s.mem a)

/-- `TLD.U` and `TLD.A` write the source vectors and `PH`, or, on a fault, `PH` and the error record alone; no
byte of memory either way (R170, R266). -/
def Obligations.LoadFrame : Prop :=
  ∀ (s t : State) (i : Instr), i = .tldU ∨ i = .tldA → exec i s = .next t →
    (t = { s with sv := t.sv, ph := .lum0 }
      ∨ t = { s with ph := .fault, err := true, ecode := t.ecode, done := false })
    ∧ ∀ a, Memory.read t.mem a = Memory.read s.mem a

/-- `TST.U` and `TST.A` write the 16 bytes at `DA`, `COL` on a main tile, and `PH`, or, on a fault, `PH` and the
error record alone (R174, R266). -/
def Obligations.StoreFrame : Prop :=
  ∀ (s t : State) (i : Instr), i = .tstU ∨ i = .tstA → exec i s = .next t →
    (t = { s with mem := t.mem, col := t.col, ph := t.ph } ∧ (s.tailf = true → t.col = s.col)
      ∨ t = { s with ph := .fault, err := true, ecode := t.ecode, done := false })
    ∧ ∀ a, a < (s.dp.toNat + s.col.toNat) % 2 ^ s.cfg.aw
        ∨ (s.dp.toNat + s.col.toNat) % 2 ^ s.cfg.aw + 16 ≤ a → Memory.read t.mem a = Memory.read s.mem a

/-! ## The host interface -/

/-- The fields of `STATUS` (R23). -/
def Obligations.StatusFields : Prop :=
  ∀ (s : State) (n : Nat),
    s.status.getLsbD 0 = decide (s.ph ≠ .idle ∧ s.ph ≠ .fault)
    ∧ s.status.getLsbD 1 = s.done ∧ s.status.getLsbD 2 = s.err
    ∧ s.status.getLsbD 3 = decide (s.ph = .fault) ∧ s.status.getLsbD 4 = s.path
    ∧ s.status.extractLsb' 8 4 = s.ecode
    ∧ (5 ≤ n ∧ n ≤ 7 ∨ 12 ≤ n → s.status.getLsbD n = false)

/-- `RD n` returns the register's value, 0 for `CMD` and for every number from 16 on, and changes nothing else, in
any phase (R33, R228). -/
def Obligations.HostReadReturnsRegister : Prop :=
  ∀ (s : State) (n : Nat),
    ∃ v, envOp (.rd n) s = .next { s with reply := some v }
      ∧ (n = 0 ∨ 16 ≤ n → v = 0) ∧ (n = 1 → v = s.status)
      ∧ (n = 2 → v = s.src) ∧ (n = 3 → v = s.srcLen) ∧ (n = 4 → v = s.width) ∧ (n = 5 → v = s.height)
      ∧ (n = 6 → v = s.sstride) ∧ (n = 7 → v = s.dst) ∧ (n = 8 → v = s.dstLen) ∧ (n = 9 → v = s.dstride)
      ∧ (s.cfg.valid = true →
        (n = 10 → v.toNat = s.cfg.wr) ∧ (n = 11 → v.toNat = s.cfg.wg) ∧ (n = 12 → v.toNat = s.cfg.wb)
        ∧ (n = 13 → v.toNat = s.cfg.shift) ∧ (n = 14 → v.toNat = 2 ^ (s.cfg.shift - 1))
        ∧ (n = 15 → v.toNat = 16))

/-- A descriptor write in `IDLE` is read back and changes no other register; in any other phase it has no effect
(R226). -/
def Obligations.DescriptorWriteReadBack : Prop :=
  ∀ (s : State) (n : Nat) (v : Word), 2 ≤ n → n ≤ 9 →
    (s.ph = .idle →
      ∃ t, writeReg n v s = .next t ∧ t.readReg n = v ∧ (∀ m, m ≠ n → t.readReg m = s.readReg m)
        ∧ t = { s with
                src := t.src, srcLen := t.srcLen, width := t.width, height := t.height
                sstride := t.sstride, dst := t.dst, dstLen := t.dstLen, dstride := t.dstride })
    ∧ (s.ph ≠ .idle → writeReg n v s = .next s)

/-- A write to `STATUS`, to a constant register or to a number from 16 on has no effect in any phase (R227). -/
def Obligations.ReadOnlyRegistersIgnoreWrites : Prop :=
  ∀ (s : State) (n : Nat) (v : Word), n = 1 ∨ 10 ≤ n → writeReg n v s = .next s

/-- While a call runs a host register access changes nothing but what the host itself holds: its pending
operations and the value its read returned (R229). The two fields are the model's (logs 6, 7). -/
def Obligations.HostAccessHarmlessDuringCall : Prop :=
  ∀ (s : State) (op : EnvOp), s.busy = true →
    ((∃ n, op = .rd n) ∨ (∃ n v, op = .wr n v ∧ v.toNat < 2 ^ s.cfg.aw) ∨ op = .poll) →
    ∃ t, envOp op s = .next t ∧ t = { s with env := t.env, reply := t.reply }

/-- A host access that breaks the duty of R77 while `BUSY = 1` is given no meaning: a write of a byte of either
buffer, a read of a byte of the destination. -/
def Obligations.HostDutyBrokenRefused : Prop :=
  ∀ (s : State) (a : Nat) (b : Byte), s.busy = true → a < 2 ^ s.cfg.aw →
    (s.src.toNat ≤ a ∧ a < s.src.toNat + s.srcLen.toNat ∨ s.dst.toNat ≤ a ∧ a < s.dst.toNat + s.dstLen.toNat →
      envOp (.memWr a b) s = .refused .hostDutyBroken)
    ∧ (s.dst.toNat ≤ a ∧ a < s.dst.toNat + s.dstLen.toNat →
      envOp (.memRd a) s = .refused .hostDutyBroken)

/-- Outside a call the host reads the byte it has written to memory, and its write changes no other byte and
nothing of the block (R61, R230; the byte-wise access is the model's, log 19). -/
def Obligations.HostMemoryWriteReadBack : Prop :=
  ∀ (s : State) (a : Nat) (b : Byte), s.busy = false → a < 2 ^ s.cfg.aw → Memory.wf s.mem = true →
    ∃ t, envOp (.memWr a b) s = .next t ∧ t = { s with mem := t.mem }
      ∧ envOp (.memRd a) t = .next { t with reply := some (b.setWidth 64) }
      ∧ ∀ a', a' ≠ a → Memory.read t.mem a' = Memory.read s.mem a'

/-! ## Reset -/

/-- The state after reset (R49), for every configuration: the vector registers, unspecified there, are not
mentioned. A `CONVERT` written then is refused with `E_NULL`. -/
def Obligations.ResetValues : Prop :=
  ∀ c : Config, c.valid = true →
    let s := State.resetOf c
    s.ph = .idle ∧ s.done = false ∧ s.err = false ∧ s.path = false ∧ s.ecode = 0 ∧ s.status = 0
      ∧ s.src = 0 ∧ s.srcLen = 0 ∧ s.width = 0 ∧ s.height = 0 ∧ s.sstride = 0 ∧ s.dst = 0 ∧ s.dstLen = 0
      ∧ s.dstride = 0 ∧ (s.readReg 10).toNat = c.wr ∧ (s.readReg 11).toNat = c.wg
      ∧ (s.readReg 12).toNat = c.wb ∧ (s.readReg 13).toNat = c.shift
      ∧ (s.readReg 14).toNat = 2 ^ (c.shift - 1) ∧ (s.readReg 15).toNat = 16
      ∧ s.row = 0 ∧ s.col = 0 ∧ s.sp = 0 ∧ s.dp = 0 ∧ s.tailf = false
      ∧ ∃ t, exec .convert s = .next t ∧ t.ph = .idle ∧ t.status = 0x204

/-- The reset event, in any phase: every register but the vector registers takes its reset value, the constants
stay, memory is not touched (R290). -/
def Obligations.ResetEventEffect : Prop :=
  ∀ s : State, ∃ t, envOp .reset s = .next t
    ∧ t = { s with
            ph := .idle, done := false, err := false, path := false, ecode := 0
            src := 0, srcLen := 0, width := 0, height := 0, sstride := 0, dst := 0, dstLen := 0, dstride := 0
            row := 0, col := 0, sp := 0, dp := 0, tailf := false
            sv := t.sv, lv := t.lv, ov := t.ov }

/-- `FAULT` is left by reset alone: any other step leaves every register as it is, and the sequencer has none
(R266, X14). -/
def Obligations.FaultLeftOnlyByReset : Prop :=
  ∀ s t : State, s.ph = .fault → step s = .next t → s.env.head? ≠ some .reset →
    t = { s with mem := t.mem, unbacked := t.unbacked, env := t.env, turns := t.turns, reply := t.reply }

/-- After a fault `STATUS` reads `0x80C` or `0x90C`, plus `0x10` if `PATH` is 1 (R266). -/
def Obligations.FaultStatus : Prop :=
  ∀ (s t : State) (i : Instr), exec i s = .next t → s.ph ≠ .fault → t.ph = .fault →
    (t.ecode = 8 ∨ t.ecode = 9)
      ∧ t.status.toNat = 0x00C + 0x100 * t.ecode.toNat + (if s.path = true then 0x10 else 0)

/-! ## Invariants -/

/-- Every step keeps memory in canonical form (the model's own form of memory, log 4). -/
def Obligations.MemoryStaysCanonical : Prop :=
  ∀ s t : State, Memory.wf s.mem = true → step s = .next t → Memory.wf t.mem = true

/-- The constants are hardwired: no step of either agent changes them (R33, R120). -/
def Obligations.ConstantsNeverChange : Prop :=
  ∀ s t : State, step s = .next t →
    t.cfg = s.cfg ∧ ∀ n, 10 ≤ n → t.readReg n = s.readReg n

/-- The block never writes a descriptor register (R24). -/
def Obligations.BlockNeverWritesDescriptor : Prop :=
  ∀ (s t : State) (i : Instr), exec i s = .next t →
    ∀ n, 2 ≤ n → n ≤ 9 → t.readReg n = s.readReg n

/-- The invariant holds after reset, for every valid configuration. -/
def Obligations.InvHoldsAtReset : Prop := ∀ c : Config, c.valid = true → (State.resetOf c).Inv

/-- Every step of either agent keeps the invariant: the registers are `AW`-bit values, the status bits are a legal
combination (R23), the row pointers and columns of a running call are where R199 and R200 say, and no
`AlignFault` is ever recorded (R203). -/
def Obligations.InvKeptByEveryStep : Prop := ∀ s t : State, s.Inv → step s = .next t → t.Inv

/-- Whenever an aligned variant is issued its address is a multiple of 16 (R203). -/
def Obligations.AlignedVariantsNeverFault : Prop :=
  ∀ s : State, s.Inv →
    (s.fetchWord = some 0x38 → s.ta % 16 = 0) ∧ (s.fetchWord = some 0x68 → s.da % 16 = 0)

/-- Every access of a running call lies in the granted buffers, and does not wrap (R68, R78). -/
def Obligations.AccessesStayInGrantedBuffers : Prop :=
  ∀ s : State, s.Inv →
    (s.ph = .ld → s.src.toNat ≤ s.ta ∧ s.ta + 64 ≤ s.src.toNat + s.srcLen.toNat ∧ s.ta + 64 ≤ 2 ^ s.cfg.aw
      ∧ s.ta = s.src.toNat + s.row.toNat * s.sstride.toNat + 4 * s.col.toNat)
    ∧ (s.ph = .st → s.dst.toNat ≤ s.da ∧ s.da + 16 ≤ s.dst.toNat + s.dstLen.toNat ∧ s.da + 16 ≤ 2 ^ s.cfg.aw
      ∧ s.da = s.dst.toNat + s.row.toNat * s.dstride.toNat + s.col.toNat)

/-- With both granted ranges backed no step of a running call faults (R277). -/
def Obligations.BackedCallNeverFaults : Prop :=
  ∀ s t : State, s.Inv → s.busy = true →
    (∀ a, s.src.toNat ≤ a → a < s.src.toNat + s.srcLen.toNat → s.memok a = true) →
    (∀ a, s.dst.toNat ≤ a → a < s.dst.toNat + s.dstLen.toNat → s.memok a = true) →
    step s = .next t → t.ph ≠ .fault

/-! ## A whole call -/

/-- An accepted call whose footprints are backed completes after `HEIGHT * (nm + 3 + 7*nt) + 1` sequencer steps,
and then `STATUS` reads `0x02` or `0x12` (R202, R197). No turn is given to the host in between (log 6). The state
before the call meets the invariant of every run. -/
def Obligations.CallCompletesInCountedSteps : Prop :=
  ∀ s : State, s.Inv → s.ph = .idle → s.validate = 0 → s.turns = [] → s.footprintsBacked →
    ∃ t₀ t : State, exec .convert s = .next t₀
      ∧ Host.Core.run Sys2Proof.core (callSteps s.width.toNat s.height.toNat) t₀ = .next t
      ∧ t.ph = .idle ∧ t.status = (if t₀.path = true then 0x12 else 0x02)

/-- What a call computes (R205): every destination pixel is `luma` of its source pixel, and every byte outside the
write footprint is unchanged (R67, R81). No turn is given to the host in between (log 6). The state before the call
meets the invariant of every run. -/
def Obligations.CallComputesGrayImage : Prop :=
  ∀ s : State, s.Inv → s.ph = .idle → s.validate = 0 → s.turns = [] → s.footprintsBacked →
    ∃ t₀ t : State, exec .convert s = .next t₀
      ∧ Host.Core.run Sys2Proof.core (callSteps s.width.toNat s.height.toNat) t₀ = .next t
      ∧ t.done = true
      ∧ (∀ r c, r < s.height.toNat → c < s.width.toNat →
          (Memory.read t.mem (s.destAddr r c)).toNat = s.grayOf s.mem r c)
      ∧ ∀ a, ¬ s.writes a → Memory.read t.mem a = Memory.read s.mem a

/-- The aligned and the unaligned path compute the same: a step of the sequencer on the aligned path and one from
the same state with `PATH` 0 lead to states that differ in `PATH` alone (R206). -/
def Obligations.PathsAreEquivalent : Prop :=
  ∀ s t : State, s.Inv → s.busy = true → s.path = true → s.turns = [] → step s = .next t →
    step { s with path := false } = .next { t with path := false }

/-- The micro-operation issued, the address accessed and everything that follows in the control of a call depend on
no byte of memory, no vector register and no weight (R204). -/
def Obligations.ControlIndependentOfData : Prop :=
  ∀ s s' : State, s.cfg.valid = true → s'.cfg.valid = true → s.controlView = s'.controlView →
    s.busy = true → s.turns = [] →
    s.fetchWord = s'.fetchWord ∧ s.ta = s'.ta ∧ s.da = s'.da
      ∧ outcomesRelated (fun t t' => t.controlView = t'.controlView) (step s) (step s')
end

