-- ==== Sys2Proof/Laws/Memory.lean ====
section
/-! SUPPORT. Memory: a read after a write, and the canonical form that every memory operation keeps. -/

namespace Sys2Proof.Machine

@[simp] theorem read_nil (a : Nat) : Memory.read [] a = Memory.unlisted := rfl

theorem above_mono {m : Memory} {a b : Nat} (h : Memory.above b m = true) (hab : a ≤ b) :
    Memory.above a m = true := by
  cases m with
  | nil => rfl
  | cons c m =>
    have : b < c.1 := by simpa [Memory.above] using h
    simpa [Memory.above] using (by omega : a < c.1)

/-- The parts of the canonical form of a list that is not empty. -/
theorem wf_cons {k : Nat} {v : Byte} {m : Memory} :
    Memory.wf ((k, v) :: m) = true ↔
      v ≠ Memory.unlisted ∧ Memory.above k m = true ∧ Memory.wf m = true := by
  simp [Memory.wf, and_assoc]

/-- An address below every listed one is unlisted. -/
theorem read_of_above {m : Memory} (hw : Memory.wf m = true) {a : Nat} (h : Memory.above a m = true) :
    Memory.read m a = Memory.unlisted := by
  induction m with
  | nil => rfl
  | cons c m ih =>
    obtain ⟨k, v⟩ := c
    have hk : a < k := by simpa [Memory.above] using h
    obtain ⟨-, ha, hm⟩ := wf_cons.1 hw
    simp only [Memory.read, if_neg (by omega : k ≠ a)]
    exact ih hm (above_mono ha (by omega))

theorem above_write {m : Memory} (hw : Memory.wf m = true) {x a : Nat} {b : Byte}
    (h : Memory.above x m = true) (hx : x < a) : Memory.above x (Memory.write m a b) = true := by
  cases m with
  | nil => by_cases hb : b = Memory.unlisted <;> simp [Memory.write, Memory.above, hb, hx]
  | cons c m =>
    obtain ⟨k, v⟩ := c
    have hk : x < k := by simpa [Memory.above] using h
    obtain ⟨-, ha, -⟩ := wf_cons.1 hw
    simp only [Memory.write]
    split_ifs
    · simpa [Memory.above] using hk
    · exact above_mono ha (by omega)
    · simpa [Memory.above] using hx
    · simpa [Memory.above] using hk
    · simpa [Memory.above] using hx

/-- A write keeps the canonical form. -/
theorem write_wf {m : Memory} (hw : Memory.wf m = true) (a : Nat) (b : Byte) :
    Memory.wf (Memory.write m a b) = true := by
  induction m with
  | nil => by_cases hb : b = Memory.unlisted <;> simp [Memory.write, Memory.wf, Memory.above, hb]
  | cons c m ih =>
    obtain ⟨k, v⟩ := c
    obtain ⟨hv, ha, hm⟩ := wf_cons.1 hw
    simp only [Memory.write]
    split_ifs with h1 h2 h3 h4
    · exact wf_cons.2 ⟨hv, above_write hm ha h1, ih hm⟩
    · exact hm
    · subst h2
      exact wf_cons.2 ⟨h3, ha, hm⟩
    · exact hw
    · exact wf_cons.2 ⟨h4, by simpa [Memory.above] using (by omega : a < k), hw⟩

/-- Writing a list of bytes keeps the canonical form. -/
theorem writeList_wf {m : Memory} (hw : Memory.wf m = true) (a : Nat) (bs : List Byte) :
    Memory.wf (Memory.writeList m a bs) = true := by
  induction bs generalizing m a with
  | nil => exact hw
  | cons b bs ih => exact ih (write_wf hw a b) (a + 1)

/-- A read of the address written gives the byte written. -/
theorem read_write_same {m : Memory} (hw : Memory.wf m = true) (a : Nat) (b : Byte) :
    Memory.read (Memory.write m a b) a = b := by
  induction m with
  | nil => by_cases hb : b = Memory.unlisted <;> simp [Memory.write, Memory.read, hb]
  | cons c m ih =>
    obtain ⟨k, v⟩ := c
    obtain ⟨-, ha, hm⟩ := wf_cons.1 hw
    simp only [Memory.write]
    split_ifs with h1 h2 h3 h4
    · rw [Memory.read, if_neg (by omega)]
      exact ih hm
    · subst h2
      rw [h3]
      exact read_of_above hm ha
    · simp [Memory.read]
    · rw [h4]
      exact read_of_above hw (by simpa [Memory.above] using (by omega : a < k))
    · simp [Memory.read]

/-- A read of any other address gives what it gave before. -/
theorem read_write_other (m : Memory) {a a' : Nat} (b : Byte) (h : a' ≠ a) :
    Memory.read (Memory.write m a b) a' = Memory.read m a' := by
  induction m with
  | nil => by_cases hb : b = Memory.unlisted <;> simp [Memory.write, Memory.read, hb, Ne.symm h]
  | cons c m ih =>
    obtain ⟨k, v⟩ := c
    simp only [Memory.write]
    split_ifs with h1 h2 h3 h4
    · by_cases hk : k = a' <;> simp [Memory.read, hk, ih]
    · simp [Memory.read, h2, Ne.symm h]
    · simp [Memory.read, h2, Ne.symm h]
    · rfl
    · simp [Memory.read, Ne.symm h]

/-- Outside the bytes written, a list write changes nothing. -/
theorem read_writeList_other (m : Memory) (a : Nat) (bs : List Byte) {a' : Nat}
    (h : a' < a ∨ a + bs.length ≤ a') :
    Memory.read (Memory.writeList m a bs) a' = Memory.read m a' := by
  induction bs generalizing m a with
  | nil => rfl
  | cons b bs ih =>
    simp only [List.length_cons] at h
    rw [Memory.writeList, ih _ _ (by omega), read_write_other _ _ (by omega)]

/-- The byte at `a + j` after a list write is byte `j` of the list. -/
theorem read_writeList_same {m : Memory} (hw : Memory.wf m = true) (a : Nat) (bs : List Byte) (j : Nat)
    (hj : j < bs.length) : Memory.read (Memory.writeList m a bs) (a + j) = bs[j] := by
  induction bs generalizing m a j with
  | nil => exact absurd hj (by simp)
  | cons b bs ih =>
    cases j with
    | zero =>
      rw [Memory.writeList, read_writeList_other _ _ _ (by omega)]
      simpa using read_write_same hw a b
    | succ j =>
      rw [Memory.writeList, (by omega : a + (j + 1) = a + 1 + j),
        ih (write_wf hw a b) _ _ (by simpa using hj)]
      rfl

/-- A list write lists no address but those listed before and those written. -/
theorem mem_write_addr {m : Memory} {a : Nat} {b : Byte} {c : Host.Cell} (h : c ∈ Memory.write m a b) :
    c ∈ m ∨ c.1 = a := by
  induction m with
  | nil =>
    by_cases hb : b = Memory.unlisted
    · simp [Memory.write, hb] at h
    · right
      simp only [Memory.write, if_neg hb, List.mem_singleton] at h
      rw [h]
  | cons d m ih =>
    obtain ⟨k, v⟩ := d
    simp only [Memory.write] at h
    split_ifs at h with h1 h2 h3 h4
    · rcases List.mem_cons.1 h with h | h
      · exact .inl (h ▸ List.mem_cons_self)
      · exact (ih h).imp (List.mem_cons_of_mem _) id
    · exact .inl (List.mem_cons_of_mem _ h)
    · rcases List.mem_cons.1 h with h | h
      · exact .inr (by rw [h])
      · exact .inl (List.mem_cons_of_mem _ h)
    · exact .inl h
    · rcases List.mem_cons.1 h with h | h
      · exact .inr (by rw [h])
      · exact .inl h

/-- A list write lists no address but those listed before and those written. -/
theorem mem_writeList_addr {m : Memory} {a : Nat} {bs : List Byte} {c : Host.Cell}
    (h : c ∈ Memory.writeList m a bs) : c ∈ m ∨ a ≤ c.1 ∧ c.1 < a + bs.length := by
  induction bs generalizing m a with
  | nil => exact .inl h
  | cons b bs ih =>
    simp only [List.length_cons]
    rcases ih h with h | h
    · rcases mem_write_addr h with h | h
      · exact .inl h
      · right; omega
    · right; omega

/-- Memory right after reset is canonical. -/
theorem reset_mem_wf : Memory.wf State.reset.mem = true := rfl

end Sys2Proof.Machine
end

