-- ==== Sys2Proof/Laws/Ops.lean ====
section
/-! SUPPORT. What each shared operation can do, said once. -/

namespace Sys2Proof.Machine

/-! ## A valid configuration (R10, R12) -/

/-- R10 and R12 as inequalities. -/
theorem valid_iff (c : Config) : c.valid = true ↔
    (1 ≤ c.shift ∧ c.shift ≤ 15) ∧ (c.wr ≤ 32767 ∧ c.wg ≤ 32767 ∧ c.wb ≤ 32767)
      ∧ c.wr + c.wg + c.wb ≤ 2 ^ c.shift
      ∧ 2 ^ c.shift ≤ c.wr + c.wg + c.wb + 2 ^ (c.shift - 1) / 255 ∧ 16 ≤ c.aw ∧ c.aw ≤ 64 := by
  simp [Config.valid, Config.shiftOk, Config.weightsOk, Config.sumNotAbove, Config.sumNotBelow,
    Config.awOk, and_assoc]

/-- A valid width is at most 64 bits. -/
theorem aw_le_of_valid {c : Config} (h : c.valid = true) : c.aw ≤ 64 := ((valid_iff c).1 h).2.2.2.2.2

/-- A valid width is at least 16 bits. -/
theorem le_aw_of_valid {c : Config} (h : c.valid = true) : 16 ≤ c.aw := ((valid_iff c).1 h).2.2.2.2.1

/-! ## `AW`-bit arithmetic -/

/-- `wrap` is the remainder modulo `2^AW`. -/
theorem wrap_toNat {c : Config} (h : c.aw ≤ 64) (n : Nat) : (wrap c n).toNat = n % 2 ^ c.aw := by
  have h1 : n % 2 ^ c.aw < 2 ^ c.aw := Nat.mod_lt _ (Nat.two_pow_pos _)
  have h2 : 2 ^ c.aw ≤ 2 ^ 64 := Nat.pow_le_pow_right (by omega) h
  simp only [wrap, BitVec.toNat_ofNat]
  exact Nat.mod_eq_of_lt (by omega)

/-- A wrapped value is an `AW`-bit value. -/
theorem wrap_lt (c : Config) (h : c.aw ≤ 64) (n : Nat) : (wrap c n).toNat < 2 ^ c.aw := by
  rw [wrap_toNat h]
  exact Nat.mod_lt _ (Nat.two_pow_pos _)

/-- A sum that fits does not wrap. -/
theorem wrap_of_lt {c : Config} (h : c.aw ≤ 64) {n : Nat} (hn : n < 2 ^ c.aw) : (wrap c n).toNat = n := by
  rw [wrap_toNat h, Nat.mod_eq_of_lt hn]

/-- `awd(w)` is a multiple of 16 not above `w`, less than 16 below it (R192). -/
theorem awd_spec (w : Nat) : awd w % 16 = 0 ∧ awd w ≤ w ∧ w < awd w + 16 ∧ awd w + w % 16 = w := by
  unfold awd
  omega

/-! ## The memory port (R62) -/

theorem backed16_iff (s : State) (a : Nat) :
    s.backed16 a = true ↔ ∀ j < 16, s.memok (a + j) = true := by
  simp [State.backed16, List.all_eq_true]

/-- A read of 16 backed bytes answers those bytes. -/
theorem memRead_backed {s : State} {a : Nat} (h : ∀ j < 16, s.memok (a + j) = true) :
    s.memRead a = some (Vector.ofFn fun j => Memory.read s.mem (a + j.val)) := by
  rw [State.memRead, if_pos ((backed16_iff s a).2 h)]

/-- A read of 16 bytes one of which is not backed raises `BusFault`. -/
theorem memRead_unbacked {s : State} {a : Nat} (h : ¬ ∀ j < 16, s.memok (a + j) = true) :
    s.memRead a = none := by
  rw [State.memRead, if_neg (fun h' => h ((backed16_iff s a).1 h'))]

/-- A write of 16 backed bytes stores them. -/
theorem memWrite_backed {s : State} {a : Nat} (h : ∀ j < 16, s.memok (a + j) = true) (v : ByteVec) :
    s.memWrite a v = some (Memory.writeList s.mem a v.toList) := by
  rw [State.memWrite, if_pos ((backed16_iff s a).2 h)]

/-- A write of 16 bytes one of which is not backed raises `BusFault`. -/
theorem memWrite_unbacked {s : State} {a : Nat} (h : ¬ ∀ j < 16, s.memok (a + j) = true) (v : ByteVec) :
    s.memWrite a v = none := by
  rw [State.memWrite, if_neg (fun h' => h ((backed16_iff s a).1 h'))]

/-- The vectors a tile load at `ta` answers: byte `k` of vector `g` is the byte at `ta + 16g + k` (R96). -/
def tileBytes (m : Memory) (ta : Nat) : Vector ByteVec 4 :=
  Vector.ofFn fun g => Vector.ofFn fun k => Memory.read m (ta + 16 * g.val + k.val)

/-- The four reads of a tile whose 64 bytes are backed. -/
theorem readTile_backed {s : State} {ta : Nat} (h : ∀ j < 64, s.memok (ta + j) = true) :
    s.readTile ta = some (tileBytes s.mem ta) := by
  have h4 : ∀ b, b + 16 ≤ 64 → ∀ j < 16, s.memok (ta + b + j) = true := fun b hb j hj => by
    rw [Nat.add_assoc]
    exact h _ (by omega)
  have e0 := memRead_backed (s := s) (a := ta) (fun j hj => h j (by omega))
  simp only [State.readTile, e0, memRead_backed (h4 16 (by omega)), memRead_backed (h4 32 (by omega)),
    memRead_backed (h4 48 (by omega)), Option.bind_eq_bind, Option.bind_some, Option.pure_def]
  rfl

/-- The four reads of a tile one of whose 64 bytes is not backed. -/
theorem readTile_unbacked {s : State} {ta : Nat} (h : ¬ ∀ j < 64, s.memok (ta + j) = true) :
    s.readTile ta = none := by
  have key : ∀ b, (¬ ∀ j < 16, s.memok (ta + b + j) = true) → s.memRead (ta + b) = none :=
    fun b hb => memRead_unbacked hb
  by_cases h0 : ∀ j < 16, s.memok (ta + 0 + j) = true
  · by_cases h1 : ∀ j < 16, s.memok (ta + 16 + j) = true
    · by_cases h2 : ∀ j < 16, s.memok (ta + 32 + j) = true
      · by_cases h3 : ∀ j < 16, s.memok (ta + 48 + j) = true
        · refine absurd (fun j hj => ?_) h
          have c : j = 0 + j ∧ j < 16 ∨ j = 16 + (j - 16) ∧ j - 16 < 16 ∨ j = 32 + (j - 32) ∧ j - 32 < 16
              ∨ j = 48 + (j - 48) ∧ j - 48 < 16 := by omega
          rcases c with ⟨e, hl⟩ | ⟨e, hl⟩ | ⟨e, hl⟩ | ⟨e, hl⟩ <;> rw [e, ← Nat.add_assoc]
          · exact h0 _ hl
          · exact h1 _ hl
          · exact h2 _ hl
          · exact h3 _ hl
        · cases e0 : s.memRead ta <;> cases e1 : s.memRead (ta + 16) <;> cases e2 : s.memRead (ta + 32) <;>
            simp [State.readTile, e0, e1, e2, key 48 h3]
      · cases e0 : s.memRead ta <;> cases e1 : s.memRead (ta + 16) <;>
          simp [State.readTile, e0, e1, key 32 h2]
    · cases e0 : s.memRead ta <;> simp [State.readTile, e0, key 16 h1]
  · simp [State.readTile, memRead_unbacked (s := s) (a := ta) h0]

/-- Byte `k` of vector `g` of a loaded tile. -/
theorem tileBytes_get (m : Memory) (ta : Nat) (g k : Nat) (hg : g < 4) (hk : k < 16) :
    ((tileBytes m ta)[g])[k] = Memory.read m (ta + 16 * g + k) := by
  simp [tileBytes]

/-! ## What the meanings of a load and a store can answer -/

/-- A tile load answers the loaded state or a bus fault (R170). -/
theorem tileLoad_cases (s : State) :
    (∀ j < 64, s.memok (s.ta + j) = true)
        ∧ tileLoad s = .next { s with sv := tileBytes s.mem s.ta, ph := .lum0 }
      ∨ (¬ ∀ j < 64, s.memok (s.ta + j) = true) ∧ tileLoad s = .next (s.raiseFault eBus) := by
  by_cases h : ∀ j < 64, s.memok (s.ta + j) = true
  · exact .inl ⟨h, by simp [tileLoad, readTile_backed h]⟩
  · exact .inr ⟨h, by simp [tileLoad, readTile_unbacked h]⟩

/-- A tile store answers the stored state or a bus fault (R174). -/
theorem tileStore_cases (s : State) :
    (∀ j < 16, s.memok (s.da + j) = true)
        ∧ tileStore s = .next { s with mem := Memory.writeList s.mem s.da s.ov.toList }.afterStore
      ∨ (¬ ∀ j < 16, s.memok (s.da + j) = true) ∧ tileStore s = .next (s.raiseFault eBus) := by
  by_cases h : ∀ j < 16, s.memok (s.da + j) = true
  · exact .inl ⟨h, by simp [tileStore, memWrite_backed h]⟩
  · exact .inr ⟨h, by simp [tileStore, memWrite_unbacked h]⟩

end Sys2Proof.Machine
end

