-- ==== Sys2Proof/Laws/PerInstr.lean ====
section
/-! SUPPORT. Statements about every instruction as syntax, one lemma per constructor. -/

namespace Sys2Proof.Laws.RoundTrip

/-- The word of an instruction is legal in its format (R102, R103) and decodes to the instruction. -/
def Statement (i : Instr) : Prop :=
  decode (encode i) = .instr i ∧ (encode i).legal = true

theorem convert : Statement .convert := ⟨by decide, by decide⟩
theorem rchk : Statement .rchk := ⟨by decide, by decide⟩
theorem tchk : Statement .tchk := ⟨by decide, by decide⟩
theorem tldU : Statement .tldU := ⟨by decide, by decide⟩
theorem tldA : Statement .tldA := ⟨by decide, by decide⟩
theorem luma (g : Fin 4) : Statement (.luma g) := ⟨by revert g; decide, by revert g; decide⟩
theorem pack : Statement .pack := ⟨by decide, by decide⟩
theorem tstU : Statement .tstU := ⟨by decide, by decide⟩
theorem tstA : Statement .tstA := ⟨by decide, by decide⟩
theorem radv : Statement .radv := ⟨by decide, by decide⟩

end Sys2Proof.Laws.RoundTrip
end

