-- ==== Sys2Proof/Laws/State.lean ====
section
/-! SUPPORT. One lemma per field per named update of the state, each true by `rfl`: what the update writes and
what it leaves. -/

namespace Sys2Proof.Machine

/-! ## `clearRecord` (R221) -/

@[simp] theorem clearRecord_cfg (s : State) : s.clearRecord.cfg = s.cfg := rfl
@[simp] theorem clearRecord_src (s : State) : s.clearRecord.src = s.src := rfl
@[simp] theorem clearRecord_srcLen (s : State) : s.clearRecord.srcLen = s.srcLen := rfl
@[simp] theorem clearRecord_width (s : State) : s.clearRecord.width = s.width := rfl
@[simp] theorem clearRecord_height (s : State) : s.clearRecord.height = s.height := rfl
@[simp] theorem clearRecord_sstride (s : State) : s.clearRecord.sstride = s.sstride := rfl
@[simp] theorem clearRecord_dst (s : State) : s.clearRecord.dst = s.dst := rfl
@[simp] theorem clearRecord_dstLen (s : State) : s.clearRecord.dstLen = s.dstLen := rfl
@[simp] theorem clearRecord_dstride (s : State) : s.clearRecord.dstride = s.dstride := rfl
@[simp] theorem clearRecord_done (s : State) : s.clearRecord.done = false := rfl
@[simp] theorem clearRecord_err (s : State) : s.clearRecord.err = false := rfl
@[simp] theorem clearRecord_path (s : State) : s.clearRecord.path = s.path := rfl
@[simp] theorem clearRecord_ecode (s : State) : s.clearRecord.ecode = 0 := rfl
@[simp] theorem clearRecord_ph (s : State) : s.clearRecord.ph = s.ph := rfl
@[simp] theorem clearRecord_row (s : State) : s.clearRecord.row = s.row := rfl
@[simp] theorem clearRecord_col (s : State) : s.clearRecord.col = s.col := rfl
@[simp] theorem clearRecord_sp (s : State) : s.clearRecord.sp = s.sp := rfl
@[simp] theorem clearRecord_dp (s : State) : s.clearRecord.dp = s.dp := rfl
@[simp] theorem clearRecord_tailf (s : State) : s.clearRecord.tailf = s.tailf := rfl
@[simp] theorem clearRecord_sv (s : State) : s.clearRecord.sv = s.sv := rfl
@[simp] theorem clearRecord_lv (s : State) : s.clearRecord.lv = s.lv := rfl
@[simp] theorem clearRecord_ov (s : State) : s.clearRecord.ov = s.ov := rfl
@[simp] theorem clearRecord_mem (s : State) : s.clearRecord.mem = s.mem := rfl
@[simp] theorem clearRecord_unbacked (s : State) : s.clearRecord.unbacked = s.unbacked := rfl
@[simp] theorem clearRecord_env (s : State) : s.clearRecord.env = s.env := rfl
@[simp] theorem clearRecord_turns (s : State) : s.clearRecord.turns = s.turns := rfl
@[simp] theorem clearRecord_reply (s : State) : s.clearRecord.reply = s.reply := rfl

/-! ## `raiseRefused` (R263) -/

@[simp] theorem raiseRefused_cfg (s : State) (c : BitVec 4) : (s.raiseRefused c).cfg = s.cfg := rfl
@[simp] theorem raiseRefused_src (s : State) (c : BitVec 4) : (s.raiseRefused c).src = s.src := rfl
@[simp] theorem raiseRefused_srcLen (s : State) (c : BitVec 4) : (s.raiseRefused c).srcLen = s.srcLen := rfl
@[simp] theorem raiseRefused_width (s : State) (c : BitVec 4) : (s.raiseRefused c).width = s.width := rfl
@[simp] theorem raiseRefused_height (s : State) (c : BitVec 4) : (s.raiseRefused c).height = s.height := rfl
@[simp] theorem raiseRefused_sstride (s : State) (c : BitVec 4) : (s.raiseRefused c).sstride = s.sstride := rfl
@[simp] theorem raiseRefused_dst (s : State) (c : BitVec 4) : (s.raiseRefused c).dst = s.dst := rfl
@[simp] theorem raiseRefused_dstLen (s : State) (c : BitVec 4) : (s.raiseRefused c).dstLen = s.dstLen := rfl
@[simp] theorem raiseRefused_dstride (s : State) (c : BitVec 4) : (s.raiseRefused c).dstride = s.dstride := rfl
@[simp] theorem raiseRefused_done (s : State) (c : BitVec 4) : (s.raiseRefused c).done = s.done := rfl
@[simp] theorem raiseRefused_err (s : State) (c : BitVec 4) : (s.raiseRefused c).err = true := rfl
@[simp] theorem raiseRefused_path (s : State) (c : BitVec 4) : (s.raiseRefused c).path = s.path := rfl
@[simp] theorem raiseRefused_ecode (s : State) (c : BitVec 4) : (s.raiseRefused c).ecode = c := rfl
@[simp] theorem raiseRefused_ph (s : State) (c : BitVec 4) : (s.raiseRefused c).ph = s.ph := rfl
@[simp] theorem raiseRefused_row (s : State) (c : BitVec 4) : (s.raiseRefused c).row = s.row := rfl
@[simp] theorem raiseRefused_col (s : State) (c : BitVec 4) : (s.raiseRefused c).col = s.col := rfl
@[simp] theorem raiseRefused_sp (s : State) (c : BitVec 4) : (s.raiseRefused c).sp = s.sp := rfl
@[simp] theorem raiseRefused_dp (s : State) (c : BitVec 4) : (s.raiseRefused c).dp = s.dp := rfl
@[simp] theorem raiseRefused_tailf (s : State) (c : BitVec 4) : (s.raiseRefused c).tailf = s.tailf := rfl
@[simp] theorem raiseRefused_sv (s : State) (c : BitVec 4) : (s.raiseRefused c).sv = s.sv := rfl
@[simp] theorem raiseRefused_lv (s : State) (c : BitVec 4) : (s.raiseRefused c).lv = s.lv := rfl
@[simp] theorem raiseRefused_ov (s : State) (c : BitVec 4) : (s.raiseRefused c).ov = s.ov := rfl
@[simp] theorem raiseRefused_mem (s : State) (c : BitVec 4) : (s.raiseRefused c).mem = s.mem := rfl
@[simp] theorem raiseRefused_unbacked (s : State) (c : BitVec 4) : (s.raiseRefused c).unbacked = s.unbacked := rfl
@[simp] theorem raiseRefused_env (s : State) (c : BitVec 4) : (s.raiseRefused c).env = s.env := rfl
@[simp] theorem raiseRefused_turns (s : State) (c : BitVec 4) : (s.raiseRefused c).turns = s.turns := rfl
@[simp] theorem raiseRefused_reply (s : State) (c : BitVec 4) : (s.raiseRefused c).reply = s.reply := rfl

/-! ## `raiseFault` (R266) -/

@[simp] theorem raiseFault_cfg (s : State) (c : BitVec 4) : (s.raiseFault c).cfg = s.cfg := rfl
@[simp] theorem raiseFault_src (s : State) (c : BitVec 4) : (s.raiseFault c).src = s.src := rfl
@[simp] theorem raiseFault_srcLen (s : State) (c : BitVec 4) : (s.raiseFault c).srcLen = s.srcLen := rfl
@[simp] theorem raiseFault_width (s : State) (c : BitVec 4) : (s.raiseFault c).width = s.width := rfl
@[simp] theorem raiseFault_height (s : State) (c : BitVec 4) : (s.raiseFault c).height = s.height := rfl
@[simp] theorem raiseFault_sstride (s : State) (c : BitVec 4) : (s.raiseFault c).sstride = s.sstride := rfl
@[simp] theorem raiseFault_dst (s : State) (c : BitVec 4) : (s.raiseFault c).dst = s.dst := rfl
@[simp] theorem raiseFault_dstLen (s : State) (c : BitVec 4) : (s.raiseFault c).dstLen = s.dstLen := rfl
@[simp] theorem raiseFault_dstride (s : State) (c : BitVec 4) : (s.raiseFault c).dstride = s.dstride := rfl
@[simp] theorem raiseFault_done (s : State) (c : BitVec 4) : (s.raiseFault c).done = false := rfl
@[simp] theorem raiseFault_err (s : State) (c : BitVec 4) : (s.raiseFault c).err = true := rfl
@[simp] theorem raiseFault_path (s : State) (c : BitVec 4) : (s.raiseFault c).path = s.path := rfl
@[simp] theorem raiseFault_ecode (s : State) (c : BitVec 4) : (s.raiseFault c).ecode = c := rfl
@[simp] theorem raiseFault_ph (s : State) (c : BitVec 4) : (s.raiseFault c).ph = .fault := rfl
@[simp] theorem raiseFault_row (s : State) (c : BitVec 4) : (s.raiseFault c).row = s.row := rfl
@[simp] theorem raiseFault_col (s : State) (c : BitVec 4) : (s.raiseFault c).col = s.col := rfl
@[simp] theorem raiseFault_sp (s : State) (c : BitVec 4) : (s.raiseFault c).sp = s.sp := rfl
@[simp] theorem raiseFault_dp (s : State) (c : BitVec 4) : (s.raiseFault c).dp = s.dp := rfl
@[simp] theorem raiseFault_tailf (s : State) (c : BitVec 4) : (s.raiseFault c).tailf = s.tailf := rfl
@[simp] theorem raiseFault_sv (s : State) (c : BitVec 4) : (s.raiseFault c).sv = s.sv := rfl
@[simp] theorem raiseFault_lv (s : State) (c : BitVec 4) : (s.raiseFault c).lv = s.lv := rfl
@[simp] theorem raiseFault_ov (s : State) (c : BitVec 4) : (s.raiseFault c).ov = s.ov := rfl
@[simp] theorem raiseFault_mem (s : State) (c : BitVec 4) : (s.raiseFault c).mem = s.mem := rfl
@[simp] theorem raiseFault_unbacked (s : State) (c : BitVec 4) : (s.raiseFault c).unbacked = s.unbacked := rfl
@[simp] theorem raiseFault_env (s : State) (c : BitVec 4) : (s.raiseFault c).env = s.env := rfl
@[simp] theorem raiseFault_turns (s : State) (c : BitVec 4) : (s.raiseFault c).turns = s.turns := rfl
@[simp] theorem raiseFault_reply (s : State) (c : BitVec 4) : (s.raiseFault c).reply = s.reply := rfl

/-! ## `startCall` (R222) -/

@[simp] theorem startCall_cfg (s : State) : s.startCall.cfg = s.cfg := rfl
@[simp] theorem startCall_src (s : State) : s.startCall.src = s.src := rfl
@[simp] theorem startCall_srcLen (s : State) : s.startCall.srcLen = s.srcLen := rfl
@[simp] theorem startCall_width (s : State) : s.startCall.width = s.width := rfl
@[simp] theorem startCall_height (s : State) : s.startCall.height = s.height := rfl
@[simp] theorem startCall_sstride (s : State) : s.startCall.sstride = s.sstride := rfl
@[simp] theorem startCall_dst (s : State) : s.startCall.dst = s.dst := rfl
@[simp] theorem startCall_dstLen (s : State) : s.startCall.dstLen = s.dstLen := rfl
@[simp] theorem startCall_dstride (s : State) : s.startCall.dstride = s.dstride := rfl
@[simp] theorem startCall_done (s : State) : s.startCall.done = s.done := rfl
@[simp] theorem startCall_err (s : State) : s.startCall.err = s.err := rfl
@[simp] theorem startCall_path (s : State) : s.startCall.path = s.alignClass := rfl
@[simp] theorem startCall_ecode (s : State) : s.startCall.ecode = s.ecode := rfl
@[simp] theorem startCall_ph (s : State) : s.startCall.ph = .rchk := rfl
@[simp] theorem startCall_row (s : State) : s.startCall.row = 0 := rfl
@[simp] theorem startCall_col (s : State) : s.startCall.col = 0 := rfl
@[simp] theorem startCall_sp (s : State) : s.startCall.sp = s.src := rfl
@[simp] theorem startCall_dp (s : State) : s.startCall.dp = s.dst := rfl
@[simp] theorem startCall_tailf (s : State) : s.startCall.tailf = false := rfl
@[simp] theorem startCall_sv (s : State) : s.startCall.sv = s.sv := rfl
@[simp] theorem startCall_lv (s : State) : s.startCall.lv = s.lv := rfl
@[simp] theorem startCall_ov (s : State) : s.startCall.ov = s.ov := rfl
@[simp] theorem startCall_mem (s : State) : s.startCall.mem = s.mem := rfl
@[simp] theorem startCall_unbacked (s : State) : s.startCall.unbacked = s.unbacked := rfl
@[simp] theorem startCall_env (s : State) : s.startCall.env = s.env := rfl
@[simp] theorem startCall_turns (s : State) : s.startCall.turns = s.turns := rfl
@[simp] theorem startCall_reply (s : State) : s.startCall.reply = s.reply := rfl

/-! ## `resetEvent` (R49, R290) -/

@[simp] theorem resetEvent_cfg (s : State) : s.resetEvent.cfg = s.cfg := rfl
@[simp] theorem resetEvent_src (s : State) : s.resetEvent.src = 0 := rfl
@[simp] theorem resetEvent_srcLen (s : State) : s.resetEvent.srcLen = 0 := rfl
@[simp] theorem resetEvent_width (s : State) : s.resetEvent.width = 0 := rfl
@[simp] theorem resetEvent_height (s : State) : s.resetEvent.height = 0 := rfl
@[simp] theorem resetEvent_sstride (s : State) : s.resetEvent.sstride = 0 := rfl
@[simp] theorem resetEvent_dst (s : State) : s.resetEvent.dst = 0 := rfl
@[simp] theorem resetEvent_dstLen (s : State) : s.resetEvent.dstLen = 0 := rfl
@[simp] theorem resetEvent_dstride (s : State) : s.resetEvent.dstride = 0 := rfl
@[simp] theorem resetEvent_done (s : State) : s.resetEvent.done = false := rfl
@[simp] theorem resetEvent_err (s : State) : s.resetEvent.err = false := rfl
@[simp] theorem resetEvent_path (s : State) : s.resetEvent.path = false := rfl
@[simp] theorem resetEvent_ecode (s : State) : s.resetEvent.ecode = 0 := rfl
@[simp] theorem resetEvent_ph (s : State) : s.resetEvent.ph = .idle := rfl
@[simp] theorem resetEvent_row (s : State) : s.resetEvent.row = 0 := rfl
@[simp] theorem resetEvent_col (s : State) : s.resetEvent.col = 0 := rfl
@[simp] theorem resetEvent_sp (s : State) : s.resetEvent.sp = 0 := rfl
@[simp] theorem resetEvent_dp (s : State) : s.resetEvent.dp = 0 := rfl
@[simp] theorem resetEvent_tailf (s : State) : s.resetEvent.tailf = false := rfl
@[simp] theorem resetEvent_sv (s : State) : s.resetEvent.sv = Vector.replicate 4 (Vector.replicate 16 0) := rfl
@[simp] theorem resetEvent_lv (s : State) : s.resetEvent.lv = Vector.replicate 4 (Vector.replicate 4 0) := rfl
@[simp] theorem resetEvent_ov (s : State) : s.resetEvent.ov = Vector.replicate 16 0 := rfl
@[simp] theorem resetEvent_mem (s : State) : s.resetEvent.mem = s.mem := rfl
@[simp] theorem resetEvent_unbacked (s : State) : s.resetEvent.unbacked = s.unbacked := rfl
@[simp] theorem resetEvent_env (s : State) : s.resetEvent.env = s.env := rfl
@[simp] theorem resetEvent_turns (s : State) : s.resetEvent.turns = s.turns := rfl
@[simp] theorem resetEvent_reply (s : State) : s.resetEvent.reply = s.reply := rfl

/-! ## `resetOf` (R49) -/

@[simp] theorem resetOf_cfg (c : Config) : (State.resetOf c).cfg = c := rfl
@[simp] theorem resetOf_src (c : Config) : (State.resetOf c).src = 0 := rfl
@[simp] theorem resetOf_srcLen (c : Config) : (State.resetOf c).srcLen = 0 := rfl
@[simp] theorem resetOf_width (c : Config) : (State.resetOf c).width = 0 := rfl
@[simp] theorem resetOf_height (c : Config) : (State.resetOf c).height = 0 := rfl
@[simp] theorem resetOf_sstride (c : Config) : (State.resetOf c).sstride = 0 := rfl
@[simp] theorem resetOf_dst (c : Config) : (State.resetOf c).dst = 0 := rfl
@[simp] theorem resetOf_dstLen (c : Config) : (State.resetOf c).dstLen = 0 := rfl
@[simp] theorem resetOf_dstride (c : Config) : (State.resetOf c).dstride = 0 := rfl
@[simp] theorem resetOf_done (c : Config) : (State.resetOf c).done = false := rfl
@[simp] theorem resetOf_err (c : Config) : (State.resetOf c).err = false := rfl
@[simp] theorem resetOf_path (c : Config) : (State.resetOf c).path = false := rfl
@[simp] theorem resetOf_ecode (c : Config) : (State.resetOf c).ecode = 0 := rfl
@[simp] theorem resetOf_ph (c : Config) : (State.resetOf c).ph = .idle := rfl
@[simp] theorem resetOf_row (c : Config) : (State.resetOf c).row = 0 := rfl
@[simp] theorem resetOf_col (c : Config) : (State.resetOf c).col = 0 := rfl
@[simp] theorem resetOf_sp (c : Config) : (State.resetOf c).sp = 0 := rfl
@[simp] theorem resetOf_dp (c : Config) : (State.resetOf c).dp = 0 := rfl
@[simp] theorem resetOf_tailf (c : Config) : (State.resetOf c).tailf = false := rfl
@[simp] theorem resetOf_sv (c : Config) : (State.resetOf c).sv = Vector.replicate 4 (Vector.replicate 16 0) := rfl
@[simp] theorem resetOf_lv (c : Config) : (State.resetOf c).lv = Vector.replicate 4 (Vector.replicate 4 0) := rfl
@[simp] theorem resetOf_ov (c : Config) : (State.resetOf c).ov = Vector.replicate 16 0 := rfl
@[simp] theorem resetOf_mem (c : Config) : (State.resetOf c).mem = [] := rfl
@[simp] theorem resetOf_unbacked (c : Config) : (State.resetOf c).unbacked = [] := rfl
@[simp] theorem resetOf_env (c : Config) : (State.resetOf c).env = [] := rfl
@[simp] theorem resetOf_turns (c : Config) : (State.resetOf c).turns = [] := rfl
@[simp] theorem resetOf_reply (c : Config) : (State.resetOf c).reply = none := rfl

/-! ## Status of an updated state -/

@[simp] theorem busy_raiseFault (s : State) (c : BitVec 4) : (s.raiseFault c).busy = false := rfl
@[simp] theorem busy_startCall (s : State) : s.startCall.busy = true := rfl
@[simp] theorem busy_clearRecord (s : State) : s.clearRecord.busy = s.busy := rfl
@[simp] theorem busy_raiseRefused (s : State) (c : BitVec 4) : (s.raiseRefused c).busy = s.busy := rfl
@[simp] theorem busy_resetEvent (s : State) : s.resetEvent.busy = false := rfl
@[simp] theorem validate_clearRecord (s : State) : s.clearRecord.validate = s.validate := rfl
@[simp] theorem alignClass_clearRecord (s : State) : s.clearRecord.alignClass = s.alignClass := rfl
@[simp] theorem validate_startCall (s : State) : s.startCall.validate = s.validate := rfl
@[simp] theorem alignClass_startCall (s : State) : s.startCall.alignClass = s.alignClass := rfl

end Sys2Proof.Machine
end

