-- ==== Sys2Proof/Laws/Step.lean ====
section
/-! SUPPORT. What a step can do, said once: who takes it, and what that agent's step is. -/

namespace Sys2Proof.Machine

/-! ## Fetch (R191) -/

/-- The sequencer has a word in the running phases and in no other (R191). -/
theorem fetchWord_isSome (s : State) : s.fetchWord.isSome = s.busy := by
  unfold State.fetchWord State.busy Phase.running
  cases s.ph <;> rfl

/-- The instruction the sequencer executes in each phase (R191, R193). -/
def State.fetched (s : State) : Option Instr :=
  match s.ph with
  | .idle => none
  | .rchk => some .rchk
  | .tchk => some .tchk
  | .ld => some (if s.useAligned then .tldA else .tldU)
  | .lum0 => some (.luma 0)
  | .lum1 => some (.luma 1)
  | .lum2 => some (.luma 2)
  | .lum3 => some (.luma 3)
  | .pk => some .pack
  | .st => some (if s.useAligned then .tstA else .tstU)
  | .radv => some .radv
  | .fault => none

/-- The fetched word always decodes, to the fetched instruction. -/
theorem sequencerStep_eq (s : State) :
    sequencerStep s = match s.fetched with
      | some i => exec i s
      | none => .fault .noStep := by
  unfold sequencerStep State.fetchWord State.fetched
  cases s.ph <;> simp only [decode_rchk, decode_tchk, decode_luma_0, decode_luma_1, decode_luma_2,
    decode_luma_3, decode_pack, decode_radv]
  · cases s.useAligned <;> rfl
  · cases s.useAligned <;> rfl

/-! ## Every instruction answers a next state: refusals and faults of the block are states (R263, R266) -/

theorem exec_next (i : Instr) (s : State) : ∃ t, exec i s = .next t := by
  have load : ∃ t, tileLoad s = .next t := by
    rcases tileLoad_cases s with ⟨_, h⟩ | ⟨_, h⟩ <;> exact ⟨_, h⟩
  have store : ∃ t, tileStore s = .next t := by
    rcases tileStore_cases s with ⟨_, h⟩ | ⟨_, h⟩ <;> exact ⟨_, h⟩
  cases i with
  | convert => by_cases h : s.ph = .idle <;> simp [exec, execConvert, h]
  | rchk => by_cases h : s.row = s.height <;> simp [exec, execRchk, h]
  | tchk =>
    simp only [exec, execTchk]
    split_ifs <;> exact ⟨_, rfl⟩
  | tldU => exact load
  | tldA =>
    simp only [exec, execTldA]
    split_ifs
    exacts [load, ⟨_, rfl⟩]
  | luma g => exact ⟨_, rfl⟩
  | pack => exact ⟨_, rfl⟩
  | tstU => exact store
  | tstA =>
    simp only [exec, execTstA]
    split_ifs
    exacts [store, ⟨_, rfl⟩]
  | radv => exact ⟨_, rfl⟩

/-! ## Turns -/

/-- An agent that takes a turn has a step. -/
theorem nextTurn_hasStep {s : State} {ts : List Agent} {a : Agent} {rest : List Agent}
    (h : nextTurn s ts = some (a, rest)) : s.hasStep a = true := by
  induction ts with
  | nil =>
    simp only [nextTurn] at h
    split_ifs at h with h1 h2
    · obtain ⟨rfl, -⟩ : a = .sequencer ∧ rest = [] := by simpa [eq_comm] using h
      exact h1
    · obtain ⟨rfl, -⟩ : a = .host ∧ rest = [] := by simpa [eq_comm] using h
      exact h2
  | cons b ts ih =>
    simp only [nextTurn] at h
    split_ifs at h with h1
    · obtain ⟨rfl, -⟩ : b = a ∧ ts = rest := by simpa using h
      exact h1
    · exact ih h

/-- No agent takes a turn exactly when none has a step. -/
theorem nextTurn_none_iff (s : State) (ts : List Agent) :
    nextTurn s ts = none ↔ s.busy = false ∧ s.env = [] := by
  induction ts with
  | nil => cases h : s.busy <;> cases h' : s.env <;> simp [nextTurn, State.hasStep, h, h']
  | cons a ts ih =>
    simp only [nextTurn]
    split_ifs with h1
    · cases a <;> simp_all [State.hasStep]
    · exact ih

/-! ## The step -/

/-- Everything a step that answers a next state can be. -/
theorem step_cases {s t : State} (h : step s = .next t) :
    s.cfg.valid = true ∧ ∃ rest,
      (nextTurn s s.turns = some (.sequencer, rest) ∧ s.busy = true
          ∧ sequencerStep { s with turns := rest } = .next t)
        ∨ ∃ op ops, nextTurn s s.turns = some (.host, rest) ∧ s.env = op :: ops
          ∧ envOp op { s with turns := rest, env := ops } = .next t := by
  unfold step at h
  split_ifs at h with hv
  refine ⟨hv, ?_⟩
  cases hn : nextTurn s s.turns with
  | none => simp [hn] at h
  | some p =>
    obtain ⟨a, rest⟩ := p
    have hs := nextTurn_hasStep hn
    simp only [hn] at h
    cases a with
    | sequencer => exact ⟨rest, .inl ⟨rfl, hs, h⟩⟩
    | host =>
      cases he : s.env with
      | nil => simp [State.hasStep, he] at hs
      | cons op ops =>
        refine ⟨rest, .inr ⟨op, ops, rfl, rfl, ?_⟩⟩
        simpa [agentStep, envStep, he] using h

/-! ## What an operation of the surroundings can do -/

/-- A write to a register number: the descriptor register in `IDLE`, nothing otherwise (R226, R227). -/
theorem writeReg_pos {n : Nat} (hn : n ≠ 0) (v : Word) (s : State) :
    writeReg n v s = .next (if s.ph = .idle then s.setDescriptor n v else s) := by
  by_cases h : s.ph = .idle <;> simp [writeReg, hn, h]

/-- A command: `CONVERT`, or the refusal of a reserved word (R221 to R224). -/
theorem writeCommand_cases (v : Word) (s : State) :
    v = 1 ∧ writeCommand v s = execConvert s ∨ v ≠ 1 ∧ writeCommand v s = .next (reservedCommand s) := by
  have key : (v.extractLsb' 0 4 = 1 ∧ v >>> 4 = 0) ↔ v = 1 := by
    constructor
    · rintro ⟨h1, h2⟩
      have e1 : v.toNat % 16 = 1 := by simpa using congrArg BitVec.toNat h1
      have e2 : v.toNat / 16 = 0 := by
        simpa [Nat.shiftRight_eq_div_pow] using congrArg BitVec.toNat h2
      exact BitVec.eq_of_toNat_eq (by simp; omega)
    · rintro rfl
      decide
  by_cases h : v = 1
  · exact .inl ⟨h, by simp [writeCommand, decode, decodeCommand, key.2 h, exec]⟩
  · refine .inr ⟨h, ?_⟩
    simp only [writeCommand, decode, decodeCommand]
    rw [if_neg (fun h' => h (key.1 h'))]

end Sys2Proof.Machine
end

