-- ==== Sys2Proof/Tests/Slice0.lean ====
section
/-! SUPPORT. Small tests with expected results from spec/95_test_vectors.md, the refusals of ill-formed terms, and
for every obligation with hypotheses a concrete state that meets them. -/

namespace Sys2Proof.Tests

open Sys2Proof.Machine

/-! ## Helpers -/

/-- A field of the next state, where there is one. -/
def after {α : Type} (o : Host.Outcome State Fault Refusal) (f : State → α) : Option α :=
  match o with
  | .next s => some (f s)
  | .fault _ => none
  | .refused _ => none

/-- Why there is no next state. -/
def stopOf (o : Host.Outcome State Fault Refusal) : Option (Fault ⊕ Refusal) :=
  match o with
  | .next _ => none
  | .fault r => some (.inl r)
  | .refused r => some (.inr r)

/-- The base descriptor `B` of section 2.5, in `IDLE` after reset. -/
def idleB : State :=
  { State.reset with
    src := 0x1000, srcLen := 64, width := 16, height := 1, sstride := 64, dst := 0x2000, dstLen := 16,
    dstride := 16 }

/-- The call of `B` in phase `p`, first row, first tile. -/
def callB (p : Phase) : State := { idleB with path := true, sp := 0x1000, dp := 0x2000, ph := p }

/-- A state with other row pointers and column, in phase `p`. -/
def atTile (p : Phase) (sp dp col : Word) : State := { callB p with sp := sp, dp := dp, col := col }

/-- The bytes 0 to 15. -/
def countUp : ByteVec := Vector.ofFn fun k => BitVec.ofNat 8 k.val

/-- The source vector of V-LUMA-20. -/
def mixed : ByteVec := #v[0xFF, 0, 0, 0xFF, 0, 0xFF, 0, 0, 0, 0, 0xFF, 0x80, 0x80, 0x80, 0x80, 0]

/-- The source vector of V-LUMA-21. -/
def alphas : ByteVec := #v[10, 20, 30, 0, 10, 20, 30, 0x55, 10, 20, 30, 0xAA, 10, 20, 30, 0xFF]

/-- Every vector register holds bytes that a fault could lose. -/
def filled (p : Phase) : State := { callB p with sv := #v[alphas, countUp, mixed, countUp], ov := countUp }

/-! ## Ill-formed terms are refused, one for each check -/

theorem test_config_shift : { Config.reference with shift := 0 }.shiftOk = false
    ∧ Config.shiftOk { wr := 40000, wg := 20000, wb := 5536, shift := 16, aw := 64 } = false := by decide

theorem test_config_weights :
    Config.weightsOk { wr := 40000, wg := 20000, wb := 5536, shift := 16, aw := 64 } = false := by decide

/-- V-LUMA-23, first. -/
theorem test_config_sum_above : { Config.reference with wb := 1869 }.sumNotAbove = false := by decide

/-- V-LUMA-23, second. -/
theorem test_config_sum_below :
    Config.sumNotBelow { wr := 4000, wg := 9000, wb := 1000, shift := 14, aw := 64 } = false := by decide

theorem test_config_aw : { Config.reference with aw := 15 }.awOk = false
    ∧ { Config.reference with aw := 65 }.awOk = false := by decide

/-- Configurations that break R10 or R12: for each check one that breaks it, the fourth breaking two. -/
def badConfigs : List Config :=
  [{ Config.reference with shift := 0 }, { Config.reference with wb := 1869 },
    { wr := 4000, wg := 9000, wb := 1000, shift := 14, aw := 64 },
    { wr := 40000, wg := 20000, wb := 5536, shift := 16, aw := 64 },
    { wr := 32768, wg := 0, wb := 0, shift := 15, aw := 64 },
    { Config.reference with aw := 15 }, { Config.reference with aw := 65 }]

/-- Every one of them is invalid, and `step` refuses it (X9, X10). -/
theorem test_config_refused :
    badConfigs.map (fun c => (c.valid, stopOf (step { callB .rchk with cfg := c })))
      = List.replicate 7 (false, some (.inr .invalidConfig))
    ∧ Config.reference.valid = true ∧ { Config.reference with aw := 16 }.valid = true
    ∧ Config.valid { wr := 32767, wg := 1, wb := 0, shift := 15, aw := 64 } = true := by decide +kernel

/-- R102, one word for each clause: bit 2 set, `OP` 0, `OP` above 7, `A` with the wrong `OP`, `G` with the
wrong `OP`. -/
theorem test_micro_refused : ∀ w ∈ ([0x14, 0x00, 0x80, 0x18, 0x51] : List (BitVec 8)),
    legalMicro w = false ∧ decode (.micro w) = .illegal := by decide

/-- V-CV-22 to V-CV-24, and a word that differs from 1 in bit 63 alone. -/
theorem test_command_refused :
    ([0, 2, 0x11, 0x8000000000000001] : List Word).map (fun v => (legalCommand v, decode (.command v)))
      = List.replicate 4 (false, .reserved) := by decide

/-- At `AW = 16` a value and an address that need 17 bits are ill formed, and stop. -/
theorem test_access_refused :
    let s := { callB .rchk with cfg := { Config.reference with aw := 16 } }
    EnvOp.wellFormed 16 (.wr 2 0x10000) = false ∧ EnvOp.wellFormed 16 (.memRd 0x10000) = false
      ∧ EnvOp.wellFormed 16 (.memWr 0x10000 1) = false
      ∧ stopOf (envOp (.wr 2 0x10000) s) = some (.inr .valueTooWide)
      ∧ stopOf (envOp (.memRd 0x10000) s) = some (.inl .addressOutsideSpace)
      ∧ stopOf (envOp (.memWr 0x10000 1) s) = some (.inl .addressOutsideSpace) := by decide

/-! ## Decoding: words written out bit by bit from R101 and R103 -/

theorem test_decode_control : decode (.micro 0b00010000) = .instr .rchk
    ∧ decode (.micro 0b00100000) = .instr .tchk ∧ decode (.micro 0b01110000) = .instr .radv := by decide

theorem test_decode_tile : decode (.micro 0b00110000) = .instr .tldU
    ∧ decode (.micro 0b00111000) = .instr .tldA ∧ decode (.micro 0b01100000) = .instr .tstU
    ∧ decode (.micro 0b01101000) = .instr .tstA := by decide

theorem test_decode_compute : decode (.micro 0b01000011) = .instr (.luma 3)
    ∧ decode (.micro 0b01010000) = .instr .pack := by decide

theorem test_decode_command : decode (.command 0b0001) = .instr .convert
    ∧ decodeTableWord 64 1 = some .convert ∧ decodeTableWord 8 1 = some .convert
    ∧ decodeTableWord 8 0x42 = some (.luma 2) ∧ decodeTableWord 8 0x44 = none := by decide

/-! ## LUMA and PACK -/

/-- V-LUMA-20. -/
theorem test_luma_mixed : after (exec (.luma 2) (filled .lum2)) (fun t => (t.lv[2], t.ph))
    = some (#v[76, 150, 29, 128], .lum3) := by decide

/-- V-LUMA-22, the four configurations, on white, red, green, blue and on gray 128; and V-LUMA-21. -/
theorem test_luma_configs :
    [(77, 150, 29, 8), (38, 75, 15, 7), (5, 9, 2, 4), (1, 2, 1, 2)].map
        (fun (k : Nat × Nat × Nat × Nat) =>
          let c : Config := { wr := k.1, wg := k.2.1, wb := k.2.2.1, shift := k.2.2.2, aw := 64 }
          [lumaLane c 255 255 255, lumaLane c 255 0 0, lumaLane c 0 255 0, lumaLane c 0 0 255,
            lumaLane c 128 128 128])
      = [[255, 77, 149, 29, 128], [255, 76, 149, 30, 128], [255, 80, 143, 32, 128], [255, 64, 128, 64, 128]]
    ∧ after (exec (.luma 0) (filled .lum0)) (fun t => (t.lv[0], t.ph)) = some (#v[18, 18, 18, 18], .lum1) := by
  decide

/-- V-LUMA-13 and V-LUMA-8, V-LUMA-9: the half rounds up. -/
theorem test_luma_half : lumaLane .reference 0 56 102 = 45 ∧ lumaLane .reference 1 0 0 = 0
    ∧ lumaLane .reference 2 0 0 = 1 := by decide

/-- V-PACK-17. -/
theorem test_pack_whole :
    after (exec .pack { callB .pk with lv := #v[#v[76, 150, 29, 128], #v[0, 255, 256, 0xFFFFFFFF],
        #v[1000, 0xFFFFFC18, 254, 1], #v[0x7FFFFFFF, 0x80000000, 0x8000, 0xFFFF7FFF]] })
      (fun t => (t.ov, t.ph))
    = some (#v[76, 150, 29, 128, 0, 255, 255, 0, 255, 0, 254, 1, 255, 0, 255, 0], .st) := by decide

/-- V-PACK-18: lane `4g + i` lands in byte `4g + i`. -/
theorem test_pack_order :
    after (exec .pack { callB .pk with
      lv := Vector.ofFn fun g => Vector.ofFn fun i => BitVec.ofNat 32 (4 * g.val + i.val) }) (fun t => t.ov)
    = some countUp := by decide

/-! ## Tile load and store -/

/-- Some bytes of 0x1007 to 0x107F, each holding the low byte of its address. -/
def loadMem : Memory :=
  [(0x1007, 0x07), (0x1040, 0x40), (0x1046, 0x46), (0x1054, 0x54), (0x1055, 0x55), (0x1056, 0x56),
    (0x1057, 0x57), (0x107F, 0x7F)]

/-- V-LS-1 with the layout check: pixel 5 comes from 0x1054 to 0x1057. -/
theorem test_tldA_layout :
    after (exec .tldA { atTile .ld 0x1000 0 16 with mem := loadMem })
      (fun t => ((t.sv[0])[0], [(t.sv[1])[4], (t.sv[1])[5], (t.sv[1])[6], (t.sv[1])[7]], (t.sv[3])[15], t.ph))
    = some (0x40, [0x54, 0x55, 0x56, 0x57], 0x7F, .lum0) := by decide +kernel

/-- V-LS-3: the status of an `AlignFault`, on the aligned path. -/
theorem test_tldA_fault : after (exec .tldA (atTile .ld 0x1004 0 0)) (fun t => (t.ph, t.status))
    = some (.fault, 0x81C) := by decide

/-- V-LS-4. -/
theorem test_tldU_layout :
    after (exec .tldU { atTile .ld 0x1003 0 1 with mem := loadMem })
      (fun t => ((t.sv[0])[0], (t.sv[3])[15], t.ph)) = some (0x07, 0x46, .lum0) := by decide

/-- V-LS-5: the third read faults, and the vectors read before it are not kept. -/
theorem test_tldU_fault :
    after (exec .tldU { filled .ld with path := false, unbacked := [{ base := 0x1025, size := 1 }] })
      (fun t => (t.ph, t.status, t.sv[2])) = some (.fault, 0x90C, mixed) := by decide

/-- V-LS-6. -/
theorem test_tstA_store :
    after (exec .tstA { atTile .st 0 0x2000 32 with ov := countUp })
      (fun t => (Memory.read t.mem 0x2021, Memory.read t.mem 0x202F, t.col, t.ph))
    = some (1, 15, 48, .tchk) := by decide

/-- V-LS-9. -/
theorem test_tstA_fault :
    after (exec .tstA { atTile .st 0 0x2001 0 with ov := countUp, path := false })
      (fun t => (t.mem, t.col, t.status)) = some ([], 0, 0x80C) := by decide

/-- V-LS-7 and V-LS-8. -/
theorem test_tstU_store :
    after (exec .tstU { atTile .st 0 0x2000 1 with ov := countUp, tailf := true })
        (fun t => (Memory.read t.mem 0x2010, t.col, t.ph)) = some (15, 1, .radv)
    ∧ after (exec .tstU { atTile .st 0 0x2005 0 with ov := countUp })
        (fun t => (Memory.read t.mem 0x2014, t.col, t.ph)) = some (15, 16, .tchk) := by decide

/-- A store over an unbacked last byte stores none of the other fifteen (R62). -/
theorem test_tstU_fault :
    after (exec .tstU { atTile .st 0 0x2005 0 with ov := countUp, unbacked := [{ base := 0x2014, size := 1 }] })
      (fun t => (t.mem, t.ph, t.ecode)) = some ([], .fault, 9) := by decide

/-! ## The sequencer's control -/

/-- V-SEQ-1. -/
theorem test_awd : [16, 17, 31, 32, 33, 100].map awd = [16, 16, 16, 32, 32, 96] := by decide

/-- V-SEQ-7 and V-SEQ-8. -/
theorem test_rchk :
    after (exec .rchk { callB .rchk with height := 0 }) (fun t => (t.done, t.ph)) = some (true, .idle)
    ∧ after (exec .rchk { callB .rchk with row := 1, height := 3, col := 7, tailf := true })
        (fun t => (t.col, t.tailf, t.ph)) = some (0, false, .tchk) := by decide

/-- V-SEQ-2, V-SEQ-3, V-SEQ-5. -/
theorem test_tchk :
    after (exec .tchk (callB .tchk)) (fun t => (t.col, t.tailf, t.ph)) = some (0, false, .ld)
    ∧ after (exec .tchk (atTile .tchk 0 0 16)) (fun t => (t.col, t.tailf, t.ph)) = some (16, false, .radv)
    ∧ after (exec .tchk { atTile .tchk 0 0 16 with width := 20 }) (fun t => (t.col, t.tailf, t.ph))
        = some (4, true, .ld) := by decide

/-- V-SEQ-9, and a pointer that wraps at `AW = 16`. -/
theorem test_radv :
    after (exec .radv { callB .radv with sstride := 80, dstride := 32 }) (fun t => (t.sp, t.dp, t.row, t.ph))
        = some (0x1050, 0x2020, 1, .rchk)
    ∧ after (exec .radv { atTile .radv 0xFFF0 0 0 with cfg := { Config.reference with aw := 16 } })
        (fun t => t.sp) = some 0x30 := by decide

/-! ## CONVERT and the registers -/

/-- The status right after `CONVERT` (section 2.5): V-CV-1, 2, 5, 6, 8, 10 to 15, 21, 25. -/
theorem test_convert_status :
    [idleB, { idleB with src := 0 }, { idleB with width := 0 }, { idleB with sstride := 63 },
        { idleB with srcLen := 63 }, { idleB with src := 0xFFFFFFFFFFFFFFE0 },
        { idleB with src := 0xFFFFFFFFFFFFFFC0 }, { idleB with dst := 0x1030 }, { idleB with dst := 0x1040 },
        { idleB with dst := 0x0FF0 }, { idleB with src := 0x1001 }, { idleB with src := 0, width := 3 },
        State.reset].map (fun s => after (exec .convert s) State.status)
      = [some 0x011, some 0x204, some 0x304, some 0x404, some 0x504, some 0x604, some 0x011, some 0x704,
        some 0x011, some 0x011, some 0x001, some 0x204, some 0x204] := by decide

/-- V-CV-16 to V-CV-20: one unaligned stride, an unaligned pointer, zero rows, equal pointers to nothing. -/
theorem test_convert_accepted :
    [{ idleB with sstride := 68, srcLen := 68 }, { idleB with dst := 0x2008 },
        { idleB with dstride := 24, dstLen := 24 }, { idleB with height := 0, srcLen := 0, dstLen := 0 },
        { idleB with height := 0, srcLen := 0, dstLen := 0, dst := 0x1000 }].map
      (fun s => after (exec .convert s) State.status)
    = [some 0x001, some 0x001, some 0x001, some 0x011, some 0x011] := by decide

/-- V-CV-22, and V-REG-9, V-REG-10: no effect in a call and in `FAULT`. -/
theorem test_command_effects :
    after (writeReg 0 0 idleB) State.status = some 0x104
    ∧ after (writeReg 0 7 (callB .pk)) id = some (callB .pk)
    ∧ after (writeReg 0 1 (callB .fault)) id = some (callB .fault) := by decide

/-- V-REG-1 to V-REG-3, V-REG-7. -/
theorem test_read_registers :
    [0, 1, 10, 11, 12, 13, 14, 15, 16, 99].map State.reset.readReg
      = [0, 0, 4899, 9617, 1868, 14, 8192, 16, 0, 0] := by decide

/-- V-REG-4 to V-REG-6, V-REG-8. -/
theorem test_write_registers :
    after (writeReg 10 0 State.reset) (fun t => t.readReg 10) = some 4899
    ∧ after (writeReg 4 640 State.reset) (fun t => t.readReg 4) = some 640
    ∧ after (writeReg 1 0xFFF State.reset) (fun t => t.readReg 1) = some 0
    ∧ after (writeReg 4 99 (callB .pk)) (fun t => t.readReg 4) = some 16 := by decide

/-- `POLL` stays pending while the call runs and ends with it (R106). -/
theorem test_poll :
    after (envOp .poll (callB .pk)) (fun t => (t.reply, t.env)) = some (some 0x011, [.poll])
    ∧ after (envOp .poll { callB .idle with done := true }) (fun t => (t.reply, t.env)) = some (some 0x012, []) := by
  decide

/-- The ten lines of P1's `CALL`. -/
theorem test_call_lines : EnvOp.call 0x1000 64 16 1 64 0x2000 16 16
    = [.wr 2 0x1000, .wr 3 64, .wr 4 16, .wr 5 1, .wr 6 64, .wr 7 0x2000, .wr 8 16, .wr 9 16, .wr 0 1, .poll] := by
  decide

/-! ## For every obligation with hypotheses, states and operands that meet them -/

/-- The host has the turn and is about to write `CONVERT`. -/
def hostTurn : State := { idleB with env := [.wr 0 1, .poll] }

/-- A tail tile of 20 pixels, on the aligned path. -/
def tailB (p : Phase) : State :=
  { callB p with
    width := 20, sstride := 80, srcLen := 80, dstride := 32, dstLen := 32, col := 4, tailf := true }

/-- A black, a white and a gray pixel. -/
def grays : ByteVec := #v[0, 0, 0, 9, 255, 255, 255, 9, 128, 128, 128, 9, 7, 7, 7, 7]

/-- `grays` in group 3. -/
def grayB : State := { callB .lum3 with sv := #v[mixed, mixed, mixed, grays] }

/-- No memory at 0x103F, the last byte of the tile read at 0x1000, nor at 0x200F, the last one written. -/
def holesB (p : Phase) : State := { callB p with unbacked := [⟨0x103F, 1⟩, ⟨0x200F, 1⟩] }

theorem witness_StepRunsDecodedInstruction :
    (callB .pk).cfg.valid = true ∧ nextTurn (callB .pk) (callB .pk).turns = some (.sequencer, [])
    ∧ (callB .pk).fetchWord = some 0x50 ∧ decode (.micro 0x50) = .instr .pack
    ∧ hostTurn.cfg.valid = true ∧ nextTurn hostTurn hostTurn.turns = some (.host, [])
    ∧ hostTurn.env = .wr 0 1 :: [.poll] ∧ (1 : Word).toNat < 2 ^ hostTurn.cfg.aw
    ∧ decode (.command 1) = .instr .convert := by decide

/-- One word of each row of the opcode table. -/
theorem witness_PlacedWordRunsNext : State.reset.cfg.valid = true
    ∧ [0x10, 0x20, 0x30, 0x38, 0x40, 0x43, 0x50, 0x60, 0x68, 0x70].map (decodeTableWord 8)
      = [some .rchk, some .tchk, some .tldU, some .tldA, some (.luma 0), some (.luma 3), some .pack,
        some .tstU, some .tstA, some .radv]
    ∧ decodeTableWord 64 1 = some .convert := by decide

/-- Every phase with a step, with the aligned and both unaligned ways to load and store. -/
theorem witness_FetchTable :
    [callB .rchk, callB .tchk, callB .ld, tailB .ld, { callB .ld with path := false }, callB .lum0, callB .lum1,
        callB .lum2, callB .lum3, callB .pk, callB .st, tailB .st, { callB .st with path := false },
        callB .radv].map (fun s => (s.cfg.valid, s.turns, s.busy, s.fetchWord))
      = [0x10, 0x20, 0x38, 0x30, 0x30, 0x40, 0x41, 0x42, 0x43, 0x50, 0x68, 0x60, 0x60, 0x70].map
        (fun w => (true, [], true, some w))
    ∧ (callB .ld).ph = (filled .ld).ph ∧ (callB .ld).path = (filled .ld).path
    ∧ (callB .ld).tailf = (filled .ld).tailf ∧ callB .ld ≠ filled .ld := by decide

theorem witness_RunningPhasesAlwaysStep :
    (callB .radv).cfg.valid = true ∧ (callB .radv).turns = [] ∧ (callB .radv).busy = true := by decide

theorem witness_NothingPendingNoStep : State.reset.cfg.valid = true ∧ State.reset.ph = .idle
    ∧ (callB .fault).ph = .fault ∧ State.reset.env = [] ∧ (callB .fault).env = [] := by decide

theorem witness_InvalidConfigRefused :
    badConfigs.map (fun c => decide ((1 ≤ c.shift ∧ c.shift ≤ 15)
        ∧ (c.wr ≤ 32767 ∧ c.wg ≤ 32767 ∧ c.wb ≤ 32767) ∧ c.wr + c.wg + c.wb ≤ 2 ^ c.shift
        ∧ 2 ^ c.shift - 2 ^ (c.shift - 1) / 255 ≤ c.wr + c.wg + c.wb ∧ 16 ≤ c.aw ∧ c.aw ≤ 64))
      = List.replicate 7 false := by decide

/-- `B`, and `B` with its source at the very top of the address space. -/
theorem witness_ConvertAcceptedStartsCall : idleB.ph = .idle ∧ idleB.validate = 0
    ∧ { idleB with src := 0xFFFFFFFFFFFFFFC0 }.validate = 0 := by decide

theorem witness_ConvertRefusedRecordsCode :
    State.reset.ph = .idle ∧ State.reset.validate ≠ 0
    ∧ { idleB with path := true, dst := 0x103F }.validate = 7 := by decide

theorem witness_CallStartsExactlyWhenValid : idleB.ph ≠ .rchk ∧ (callB .fault).ph ≠ .rchk := by decide

theorem witness_CommandsIgnoredOutsideIdle : (callB .fault).ph ≠ .idle ∧ (callB .rchk).ph ≠ .idle := by decide

theorem witness_ReservedCommandRefused :
    (0 : Word) ≠ 1 ∧ (2 : Word) ≠ 1 ∧ (0x11 : Word) ≠ 1 ∧ idleB.ph = .idle := by decide

theorem witness_RchkStartsRowOrEndsCall :
    { callB .rchk with row := 1 }.row = { callB .rchk with row := 1 }.height
    ∧ (callB .rchk).row ≠ (callB .rchk).height := by decide

/-- The three arms where they meet: columns 15 and 16 of 16, column 16 of 17. -/
theorem witness_TchkChoosesTile :
    (callB .tchk).cfg.valid = true ∧ (callB .tchk).width.toNat < 2 ^ (callB .tchk).cfg.aw
    ∧ (15 : Word).toNat < 16 * ((16 : Word).toNat / 16)
    ∧ (16 * ((17 : Word).toNat / 16) ≤ (16 : Word).toNat ∧ 16 * ((17 : Word).toNat / 16) ≠ (17 : Word).toNat
      ∧ 16 ≤ (17 : Word).toNat)
    ∧ 16 * ((16 : Word).toNat / 16) ≤ (16 : Word).toNat ∧ 16 * ((16 : Word).toNat / 16) = (16 : Word).toNat := by
  decide

theorem witness_RadvAdvancesRow : (callB .radv).cfg.valid = true
    ∧ (0xFFFFFFFFFFFFFFFE : Word).toNat + 1 < 2 ^ (callB .radv).cfg.aw := by decide

theorem witness_UnalignedLoadReadsTile : ∀ j < 64,
    (atTile .ld 0x1003 0 1).memok
      (((atTile .ld 0x1003 0 1).sp.toNat + 4 * (atTile .ld 0x1003 0 1).col.toNat)
        % 2 ^ (atTile .ld 0x1003 0 1).cfg.aw + j) = true := by decide

/-- The last tile of the address space. -/
theorem witness_AlignedLoadReadsTile :
    ((atTile .ld 0xFFFFFFFFFFFFFF80 0 16).sp.toNat + 4 * (atTile .ld 0xFFFFFFFFFFFFFF80 0 16).col.toNat)
      % 2 ^ (atTile .ld 0xFFFFFFFFFFFFFF80 0 16).cfg.aw % 16 = 0
    ∧ ∀ j < 64, (atTile .ld 0xFFFFFFFFFFFFFF80 0 16).memok
      (((atTile .ld 0xFFFFFFFFFFFFFF80 0 16).sp.toNat + 4 * (atTile .ld 0xFFFFFFFFFFFFFF80 0 16).col.toNat)
        % 2 ^ (atTile .ld 0xFFFFFFFFFFFFFF80 0 16).cfg.aw + j) = true := by decide

/-- A main tile and a tail tile. -/
theorem witness_UnalignedStoreWritesTile : ∀ b : Bool,
    let s := { atTile .st 0 0x2005 1 with tailf := b }
    s.cfg.valid = true ∧ Memory.wf s.mem = true
    ∧ (∀ j < 16, s.memok ((s.dp.toNat + s.col.toNat) % 2 ^ s.cfg.aw + j) = true)
    ∧ s.col.toNat + 16 < 2 ^ s.cfg.aw := by decide

theorem witness_AlignedStoreWritesTile : ∀ b : Bool,
    let s := { atTile .st 0 0x2000 32 with tailf := b }
    s.cfg.valid = true ∧ Memory.wf s.mem = true ∧ (s.dp.toNat + s.col.toNat) % 2 ^ s.cfg.aw % 16 = 0
    ∧ (∀ j < 16, s.memok ((s.dp.toNat + s.col.toNat) % 2 ^ s.cfg.aw + j) = true)
    ∧ s.col.toNat + 16 < 2 ^ s.cfg.aw := by decide

theorem witness_MisalignedAccessRaisesAlignFault :
    let s := atTile .ld 0x1004 0x2001 0
    (s.sp.toNat + 4 * s.col.toNat) % 2 ^ s.cfg.aw % 16 ≠ 0
    ∧ (s.dp.toNat + s.col.toNat) % 2 ^ s.cfg.aw % 16 ≠ 0 := by decide

/-- The last byte of the tile, `j = 63` and `j = 15`. -/
theorem witness_UnbackedAccessRaisesBusFault :
    let s := holesB .ld
    s.memok ((s.sp.toNat + 4 * s.col.toNat) % 2 ^ s.cfg.aw + 63) = false
    ∧ (s.sp.toNat + 4 * s.col.toNat) % 2 ^ s.cfg.aw % 16 = 0
    ∧ s.memok ((s.dp.toNat + s.col.toNat) % 2 ^ s.cfg.aw + 15) = false
    ∧ (s.dp.toNat + s.col.toNat) % 2 ^ s.cfg.aw % 16 = 0 := by decide

theorem witness_AlignedVariantsAgree :
    let s := holesB .ld
    (s.sp.toNat + 4 * s.col.toNat) % 2 ^ s.cfg.aw % 16 = 0
    ∧ (s.dp.toNat + s.col.toNat) % 2 ^ s.cfg.aw % 16 = 0 := by decide

theorem witness_LumaComputesFormula : (filled .lum2).cfg.valid = true := by decide

theorem witness_LumaNeverExceeds255 : grayB.cfg.valid = true ∧ ∃ t, exec (.luma 3) grayB = .next t :=
  ⟨by decide, _, rfl⟩

/-- `grays` with other alpha bytes. -/
theorem witness_LumaIgnoresAlpha :
    let v := grayB.sv.set 3 #v[0, 0, 0, 1, 255, 255, 255, 2, 128, 128, 128, 3, 7, 7, 7, 4]
    (∀ i : Fin 4, (v[3])[4 * i.val] = (grayB.sv[3])[4 * i.val]
      ∧ (v[3])[4 * i.val + 1] = (grayB.sv[3])[4 * i.val + 1]
      ∧ (v[3])[4 * i.val + 2] = (grayB.sv[3])[4 * i.val + 2]) ∧ v ≠ grayB.sv := by decide +kernel

theorem witness_LumaRoundsToNearest : grayB.cfg.valid = true ∧ ∃ t, exec (.luma 3) grayB = .next t :=
  ⟨by decide, _, rfl⟩

/-- A lane for each of the three corners. -/
theorem witness_LumaOfGrayPixels : grayB.cfg.valid = true ∧ (∃ t, exec (.luma 3) grayB = .next t)
    ∧ ((grayB.sv[3])[0] = 0 ∧ (grayB.sv[3])[1] = 0 ∧ (grayB.sv[3])[2] = 0)
    ∧ ((grayB.sv[3])[4] = 255 ∧ (grayB.sv[3])[5] = 255 ∧ (grayB.sv[3])[6] = 255)
    ∧ ((grayB.sv[3])[8] = 128 ∧ (grayB.sv[3])[9] = 128 ∧ (grayB.sv[3])[10] = 128)
    ∧ grayB.cfg.wr + grayB.cfg.wg + grayB.cfg.wb = 2 ^ grayB.cfg.shift :=
  ⟨by decide, ⟨_, rfl⟩, by decide⟩

theorem witness_PackKeepsByteLanes :
    let s := { callB .pk with lv := Vector.replicate 4 #v[0, 1, 254, 255] }
    (∀ g i : Fin 4, ((s.lv[g.val])[i.val]).toNat ≤ 255) ∧ ∃ t, exec .pack s = .next t :=
  ⟨by decide, _, rfl⟩

/-- A main tile on the aligned path, and a tail tile whose destination is not aligned. -/
theorem witness_TileStoresGrayValues : [callB .ld, tailB .ld].map (fun s => decide
    (s.cfg.valid = true ∧ Memory.wf s.mem = true ∧ s.ph = .ld ∧ s.turns = []
      ∧ (s.path = true ∧ s.tailf = false → s.ta % 16 = 0 ∧ s.da % 16 = 0)
      ∧ (∀ j < 64, s.memok (s.ta + j) = true) ∧ ∀ j < 16, s.memok (s.da + j) = true)) = [true, true] := by
  decide

/-- Both arms of `RCHK`, all three of `TCHK`, and `RADV`. -/
theorem witness_ControlFrame : (∃ t, exec .rchk (callB .rchk) = .next t)
    ∧ (∃ t, exec .rchk { callB .rchk with row := 1 } = .next t) ∧ (∃ t, exec .tchk (callB .tchk) = .next t)
    ∧ (∃ t, exec .tchk (atTile .tchk 0 0 16) = .next t)
    ∧ (∃ t, exec .tchk { atTile .tchk 0 0 16 with width := 20 } = .next t)
    ∧ ∃ t, exec .radv (callB .radv) = .next t :=
  ⟨⟨_, rfl⟩, ⟨_, rfl⟩, ⟨_, rfl⟩, ⟨_, rfl⟩, ⟨_, rfl⟩, _, rfl⟩

theorem witness_ComputeFrame : (∃ t, exec (.luma 2) (filled .lum2) = .next t)
    ∧ ∃ t, exec .pack (filled .pk) = .next t := ⟨⟨_, rfl⟩, _, rfl⟩

/-- A load, a misaligned one, and one with no memory behind its last byte. -/
theorem witness_LoadFrame :
    [exec .tldU (callB .ld), exec .tldA (callB .ld), exec .tldA (atTile .ld 0x1004 0 0),
        exec .tldU (holesB .ld), exec .tldA (holesB .ld)].map (fun o => after o State.ph)
      = [some .lum0, some .lum0, some .fault, some .fault, some .fault] := by decide

theorem witness_StoreFrame :
    [exec .tstU (filled .st), exec .tstA (filled .st), exec .tstU (tailB .st),
        exec .tstA (atTile .st 0 0x2001 0), exec .tstU (holesB .st), exec .tstA (holesB .st)].map
        (fun o => after o State.ph)
      = [some .tchk, some .tchk, some .radv, some .fault, some .fault, some .fault] := by decide

theorem witness_StatusFields : (5 ≤ 5 ∧ 5 ≤ 7 ∨ 12 ≤ 5) ∧ (5 ≤ 7 ∧ 7 ≤ 7 ∨ 12 ≤ 7)
    ∧ (5 ≤ 12 ∧ 12 ≤ 7 ∨ 12 ≤ 12) := by decide

theorem witness_HostReadReturnsRegister : (0 = 0 ∨ 16 ≤ 0) ∧ (16 = 0 ∨ 16 ≤ 16)
    ∧ (callB .pk).cfg.valid = true := by decide

theorem witness_DescriptorWriteReadBack : 2 ≤ 2 ∧ 2 ≤ 9 ∧ 9 ≤ 9 ∧ idleB.ph = .idle
    ∧ (callB .fault).ph ≠ .idle ∧ (callB .pk).ph ≠ .idle := by decide

theorem witness_ReadOnlyRegistersIgnoreWrites : (1 = 1 ∨ 10 ≤ 1) ∧ (10 = 1 ∨ 10 ≤ 10) := by decide

theorem witness_HostAccessHarmlessDuringCall : (callB .st).busy = true
    ∧ (∃ n, EnvOp.rd 1 = .rd n)
    ∧ (∃ n v, EnvOp.wr 0 1 = .wr n v ∧ v.toNat < 2 ^ (callB .st).cfg.aw)
    ∧ EnvOp.poll = .poll := ⟨by decide, ⟨1, rfl⟩, ⟨0, 1, rfl, by decide⟩, rfl⟩

/-- The first and the last byte of both buffers. -/
theorem witness_HostDutyBrokenRefused :
    let s := callB .st
    s.busy = true
    ∧ (s.src.toNat ≤ 0x1000 ∧ 0x1000 < s.src.toNat + s.srcLen.toNat)
    ∧ (s.src.toNat ≤ 0x103F ∧ 0x103F < s.src.toNat + s.srcLen.toNat)
    ∧ (s.dst.toNat ≤ 0x2000 ∧ 0x2000 < s.dst.toNat + s.dstLen.toNat)
    ∧ (s.dst.toNat ≤ 0x200F ∧ 0x200F < s.dst.toNat + s.dstLen.toNat) ∧ 0x200F < 2 ^ s.cfg.aw := by decide

theorem witness_HostMemoryWriteReadBack : idleB.busy = false ∧ 2 ^ 64 - 1 < 2 ^ idleB.cfg.aw
    ∧ Memory.wf idleB.mem = true := by decide

theorem witness_ResetValues : Config.reference.valid = true := by decide

theorem witness_FaultLeftOnlyByReset :
    let s := { callB .fault with env := [.wr 0 1] }
    s.ph = .fault ∧ (∃ t, step s = .next t) ∧ s.env.head? ≠ some .reset := ⟨rfl, ⟨_, rfl⟩, by decide⟩

/-- Both faults, on both paths. -/
theorem witness_FaultStatus :
    [exec .tldA (atTile .ld 0x1004 0 0), exec .tldU { holesB .ld with path := false }].map
        (fun o => after o fun t => (t.ph, t.status))
      = [some (.fault, 0x81C), some (.fault, 0x90C)]
    ∧ (atTile .ld 0x1004 0 0).ph ≠ .fault ∧ { holesB .ld with path := false }.ph ≠ .fault := by decide

theorem witness_MemoryStaysCanonical : Memory.wf (filled .st).mem = true ∧ ∃ t, step (filled .st) = .next t :=
  ⟨by decide, _, rfl⟩

theorem witness_ConstantsNeverChange :
    (∃ t, step { idleB with env := [.wr 10 0] } = .next t) ∧ 10 ≤ 10 := ⟨⟨_, rfl⟩, by decide⟩

theorem witness_BlockNeverWritesDescriptor : (∃ t, exec .convert idleB = .next t) ∧ 2 ≤ 9 ∧ 9 ≤ 9 :=
  ⟨⟨_, rfl⟩, by decide⟩

theorem witness_InvHoldsAtReset : Config.reference.valid = true := by decide

theorem inv_load : (callB .ld).Inv := ⟨by decide, by decide, by decide, by decide, by decide, by decide⟩

theorem inv_store : (filled .st).Inv := ⟨by decide, by decide, by decide, by decide, by decide, by decide⟩

theorem inv_tail_load : (tailB .ld).Inv := ⟨by decide, by decide, by decide, by decide, by decide, by decide⟩

theorem inv_tail_store : (tailB .st).Inv := ⟨by decide, by decide, by decide, by decide, by decide, by decide⟩

/-- Inside a main tile, inside a tail tile, and a step of each. -/
theorem witness_InvKeptByEveryStep : (filled .st).Inv ∧ (tailB .st).Inv ∧ (∃ t, step (filled .st) = .next t)
    ∧ ∃ t, step (tailB .st) = .next t := ⟨inv_store, inv_tail_store, ⟨_, rfl⟩, _, rfl⟩

theorem witness_AlignedVariantsNeverFault : (callB .ld).Inv ∧ (callB .ld).fetchWord = some 0x38
    ∧ (filled .st).Inv ∧ (filled .st).fetchWord = some 0x68 := ⟨inv_load, by decide, inv_store, by decide⟩

theorem witness_AccessesStayInGrantedBuffers : (tailB .ld).Inv ∧ (tailB .ld).ph = .ld
    ∧ (tailB .st).Inv ∧ (tailB .st).ph = .st := ⟨inv_tail_load, rfl, inv_tail_store, rfl⟩

theorem witness_BackedCallNeverFaults : (callB .ld).Inv ∧ (callB .ld).busy = true
    ∧ (∀ a, (callB .ld).src.toNat ≤ a → a < (callB .ld).src.toNat + (callB .ld).srcLen.toNat →
      (callB .ld).memok a = true)
    ∧ (∀ a, (callB .ld).dst.toNat ≤ a → a < (callB .ld).dst.toNat + (callB .ld).dstLen.toNat →
      (callB .ld).memok a = true)
    ∧ ∃ t, step (callB .ld) = .next t := by
  refine ⟨inv_load, by decide, fun a _ h => ?_, fun a _ h => ?_, _, rfl⟩
  · have h : a < 0x1040 := h
    show (decide (a < 2 ^ 64) && true) = true
    simp only [Bool.and_true, decide_eq_true_eq]
    omega
  · have h : a < 0x2010 := h
    show (decide (a < 2 ^ 64) && true) = true
    simp only [Bool.and_true, decide_eq_true_eq]
    omega

theorem inv_idle : idleB.Inv := ⟨by decide, by decide, by decide, by decide, by decide, by decide⟩

theorem witness_CallCompletesInCountedSteps : idleB.Inv ∧ idleB.ph = .idle ∧ idleB.validate = 0
    ∧ idleB.turns = [] ∧ idleB.footprintsBacked :=
  ⟨inv_idle, by decide, by decide, by decide, by unfold State.footprintsBacked; decide⟩

theorem witness_CallComputesGrayImage : idleB.Inv ∧ idleB.ph = .idle ∧ idleB.validate = 0
    ∧ idleB.turns = [] ∧ idleB.footprintsBacked :=
  ⟨inv_idle, by decide, by decide, by decide, by unfold State.footprintsBacked; decide⟩

theorem witness_PathsAreEquivalent : (callB .ld).Inv ∧ (callB .ld).busy = true ∧ (callB .ld).path = true
    ∧ (callB .ld).turns = [] ∧ ∃ t, step (callB .ld) = .next t :=
  ⟨inv_load, by decide, by decide, by decide, _, rfl⟩

/-- Two states that differ in weights, vector registers and memory. -/
theorem witness_ControlIndependentOfData :
    let s' := { filled .lum0 with mem := loadMem, cfg := { wr := 77, wg := 150, wb := 29, shift := 8, aw := 64 } }
    (callB .lum0).cfg.valid = true ∧ s'.cfg.valid = true ∧ (callB .lum0).controlView = s'.controlView
    ∧ (callB .lum0).busy = true ∧ (callB .lum0).turns = [] ∧ callB .lum0 ≠ s' := by decide

end Sys2Proof.Tests
end

/-! ## Invalid configurations (R10, R12) -/

section
namespace Sys2Proof.Machine

/-- A configuration that breaks R10 or R12 stops the machine before anything else of the state is read. -/
theorem step_of_invalid {s : State} (h : ¬ s.cfg.valid = true) : step s = .refused .invalidConfig :=
  if_neg h

/-- R10 (d) bounds the sum from below by a difference, as the spec writes it; `valid_iff` adds instead. -/
theorem valid_iff_spec (c : Config) : c.valid = true ↔
    (1 ≤ c.shift ∧ c.shift ≤ 15) ∧ (c.wr ≤ 32767 ∧ c.wg ≤ 32767 ∧ c.wb ≤ 32767)
      ∧ c.wr + c.wg + c.wb ≤ 2 ^ c.shift
      ∧ 2 ^ c.shift - 2 ^ (c.shift - 1) / 255 ≤ c.wr + c.wg + c.wb ∧ 16 ≤ c.aw ∧ c.aw ≤ 64 := by
  rw [valid_iff, Nat.sub_le_iff_le_add]

/-- Settles O9: R10 and R12 together are `Config.valid`, the check `step` makes first. -/
theorem invalidConfigRefused : Obligations.InvalidConfigRefused := by
  intro s hbroken
  exact step_of_invalid (mt (valid_iff_spec s.cfg).mp hbroken)

end Sys2Proof.Machine
end

/-! ## Registers as the host reads them (R23, R33, R228) -/

section
namespace Sys2Proof.Machine

/-- `BUSY` as R23 words it. -/
theorem busy_eq_decide (s : State) : s.busy = decide (s.ph ≠ .idle ∧ s.ph ≠ .fault) := by
  unfold State.busy
  cases s.ph <;> rfl

/-- Bits 4:0 of `STATUS` (R23). -/
theorem status_flags (s : State) :
    s.status.getLsbD 0 = s.busy ∧ s.status.getLsbD 1 = s.done ∧ s.status.getLsbD 2 = s.err
      ∧ s.status.getLsbD 3 = s.faulted ∧ s.status.getLsbD 4 = s.path := by
  simp only [State.status, State.statusLow, BitVec.getLsbD_setWidth, BitVec.getLsbD_append,
    BitVec.getLsbD_ofBool]
  simp

/-- Above the flags `STATUS` holds `ECODE` from bit 8 on, and zeros (R23). -/
theorem status_getLsbD_of_ge (s : State) {n : Nat} (h : 5 ≤ n) :
    s.status.getLsbD n = (decide (8 ≤ n) && s.ecode.getLsbD (n - 8)) := by
  rcases Nat.lt_or_ge n 12 with h12 | h12
  · simp only [State.status, State.statusLow, BitVec.getLsbD_setWidth, BitVec.getLsbD_append]
    interval_cases n <;> simp
  · have hlow : s.statusLow.getLsbD n = false := BitVec.getLsbD_of_ge _ _ h12
    have hecode : s.ecode.getLsbD (n - 8) = false := BitVec.getLsbD_of_ge _ _ (by omega)
    simp [State.status, hlow, hecode]

/-- Settles O38, from the flags below bit 5 and `ECODE` above them. -/
theorem statusFields : Obligations.StatusFields := by
  intro s n
  obtain ⟨hbusy, hdone, herr, hfault, hpath⟩ := status_flags s
  refine ⟨hbusy.trans (busy_eq_decide s), hdone, herr, hfault, hpath, ?_, fun hn => ?_⟩
  · ext i hi
    simp [status_getLsbD_of_ge, hi, Nat.le_add_right_of_le, BitVec.getLsbD_eq_getElem]
  · rw [status_getLsbD_of_ge s (by omega)]
    rcases hn with ⟨-, h7⟩ | h12
    · simp [show ¬ 8 ≤ n by omega]
    · simp [BitVec.getLsbD_of_ge s.ecode (n - 8) (by omega)]

/-- `CMD` and every number from 16 on read 0 (R22, R98). -/
theorem readReg_eq_zero (s : State) : ∀ {n : Nat}, n = 0 ∨ 16 ≤ n → s.readReg n = 0
  | 0, _ => rfl
  | _ + 16, _ => rfl

/-- What register 10 and those above read is given by the configuration alone (R33, R98). -/
theorem readReg_eq_resetOf (s : State) : ∀ k, s.readReg (k + 10) = (State.resetOf s.cfg).readReg (k + 10)
  | 0 | 1 | 2 | 3 | 4 | 5 => rfl
  | _ + 6 => rfl

/-- The six constants (R33): a valid configuration fits their registers. -/
theorem readReg_constants {s : State} (h : s.cfg.valid = true) :
    (s.readReg 10).toNat = s.cfg.wr ∧ (s.readReg 11).toNat = s.cfg.wg ∧ (s.readReg 12).toNat = s.cfg.wb
      ∧ (s.readReg 13).toNat = s.cfg.shift ∧ (s.readReg 14).toNat = 2 ^ (s.cfg.shift - 1)
      ∧ (s.readReg 15).toNat = 16 := by
  obtain ⟨⟨-, hshift⟩, ⟨hwr, hwg, hwb⟩, -⟩ := (valid_iff s.cfg).1 h
  have hround : 2 ^ (s.cfg.shift - 1) < 2 ^ 64 := Nat.pow_lt_pow_right (by omega) (by omega)
  simp only [State.readReg, Config.round, BitVec.toNat_ofNat]
  exact ⟨Nat.mod_eq_of_lt (by omega), Nat.mod_eq_of_lt (by omega), Nat.mod_eq_of_lt (by omega),
    Nat.mod_eq_of_lt (by omega), Nat.mod_eq_of_lt hround, rfl⟩

/-- Settles O39: the value is the model's `readReg`, whose cases are read off one by one. -/
theorem hostReadReturnsRegister : Obligations.HostReadReturnsRegister := by
  intro s n
  refine ⟨s.readReg n, rfl, readReg_eq_zero s, ?_, ?_, ?_, ?_, ?_, ?_, ?_, ?_, ?_, fun hv => ?_⟩
  case refine_10 =>
    obtain ⟨hwr, hwg, hwb, hshift, hround, htile⟩ := readReg_constants hv
    exact ⟨fun h => h ▸ hwr, fun h => h ▸ hwg, fun h => h ▸ hwb, fun h => h ▸ hshift,
      fun h => h ▸ hround, fun h => h ▸ htile⟩
  all_goals
    rintro rfl
    rfl

end Sys2Proof.Machine
end

/-! ## The state after reset (R49) -/

section
namespace Sys2Proof.Machine

/-- A `CONVERT` with no source is refused, whatever else the descriptor says (R223, check 1). -/
theorem execConvert_of_src_zero {s : State} (hph : s.ph = .idle) (hsrc : s.src = 0) :
    execConvert s = .next (s.clearRecord.raiseRefused eNull) := by
  have hnull : s.validate = eNull := by simp [State.validate, State.nullFails, hsrc]
  simp [execConvert, convertIdle, hph, hnull, eNull]

/-- `STATUS` outside a call and outside `FAULT`, from the fields that are left (R23). -/
theorem status_of_idle {s : State} (hph : s.ph = .idle) : s.status =
    (s.ecode ++ (0 : BitVec 3) ++ BitVec.ofBool s.path ++ (0 : BitVec 1) ++ BitVec.ofBool s.err
      ++ BitVec.ofBool s.done ++ (0 : BitVec 1)).setWidth 64 := by
  simp [State.status, State.statusLow, State.faulted, State.busy, Phase.running, hph]

/-- Settles O45: the last clause is a `CONVERT` refused for `SRC = 0`. -/
theorem resetValues : Obligations.ResetValues := by
  intro c hc s
  have hstatus : s.status = 0 := by
    rw [status_of_idle rfl]
    simp [s]
  have hrefused : (s.clearRecord.raiseRefused eNull).status = 0x204 := by
    rw [status_of_idle rfl]
    simp [s, eNull]
  obtain ⟨hwr, hwg, hwb, hshift, hround, htile⟩ := readReg_constants (s := s) hc
  exact ⟨rfl, rfl, rfl, rfl, rfl, hstatus, rfl, rfl, rfl, rfl, rfl, rfl, rfl, rfl, hwr, hwg, hwb, hshift,
    hround, htile, rfl, rfl, rfl, rfl, rfl, _, execConvert_of_src_zero rfl rfl, rfl, hrefused⟩

end Sys2Proof.Machine
end

/-! ## What an instruction leaves unchanged (R24, R33, R45) -/

section
namespace Sys2Proof.Machine

/-- Settles O35: `LUMA g` sets entry `g` of `LV` alone, and `PACK` sets `OV`. -/
theorem computeFrame : Obligations.ComputeFrame := by
  intro s t g
  constructor
  · rintro ⟨⟩
    refine ⟨rfl, fun g' hne => ?_, fun _ => rfl⟩
    have hval : g.val ≠ g'.val := fun h => hne (Fin.ext h.symm)
    exact Vector.getElem_set_ne g.isLt g'.isLt hval
  · rintro ⟨⟩
    exact ⟨rfl, fun _ => rfl⟩

/-- The fields of a state that instructions read and never write: the constants and the descriptor (R24, R33). -/
structure State.SameInputs (s t : State) : Prop where
  cfg : t.cfg = s.cfg
  src : t.src = s.src
  srcLen : t.srcLen = s.srcLen
  width : t.width = s.width
  height : t.height = s.height
  sstride : t.sstride = s.sstride
  dst : t.dst = s.dst
  dstLen : t.dstLen = s.dstLen
  dstride : t.dstride = s.dstride

theorem sameInputs_afterStore (s : State) : s.SameInputs s.afterStore := by
  unfold State.afterStore
  split <;> constructor <;> rfl

theorem sameInputs_raiseFault (s : State) (code : BitVec 4) : s.SameInputs (s.raiseFault code) := by
  constructor <;> rfl

/-- An aligned load is the common load or an `AlignFault` (R171). -/
theorem execTldA_cases (s : State) : execTldA s = tileLoad s ∨ execTldA s = .next (s.raiseFault eAlign) := by
  unfold execTldA
  split_ifs
  exacts [.inl rfl, .inr rfl]

/-- An aligned store is the common store or an `AlignFault` (R175). -/
theorem execTstA_cases (s : State) : execTstA s = tileStore s ∨ execTstA s = .next (s.raiseFault eAlign) := by
  unfold execTstA
  split_ifs
  exacts [.inl rfl, .inr rfl]

theorem tileLoad_sameInputs {s t : State} (h : tileLoad s = .next t) : s.SameInputs t := by
  rcases tileLoad_cases s with ⟨-, e⟩ | ⟨-, e⟩ <;> cases e.symm.trans h
  · constructor <;> rfl
  · exact sameInputs_raiseFault s eBus

theorem tileStore_sameInputs {s t : State} (h : tileStore s = .next t) : s.SameInputs t := by
  rcases tileStore_cases s with ⟨-, e⟩ | ⟨-, e⟩ <;> cases e.symm.trans h
  · exact { sameInputs_afterStore { s with mem := Memory.writeList s.mem s.da s.ov.toList } with }
  · exact sameInputs_raiseFault s eBus

/-- No instruction writes a constant or a descriptor register. -/
theorem exec_sameInputs {i : Instr} {s t : State} (h : exec i s = .next t) : s.SameInputs t := by
  cases i with
  | convert | rchk | tchk =>
    simp only [exec, execConvert, convertIdle, execRchk, execTchk] at h
    split_ifs at h <;> cases h <;> constructor <;> rfl
  | luma g | pack | radv =>
    cases h
    constructor <;> rfl
  | tldU => exact tileLoad_sameInputs h
  | tstU => exact tileStore_sameInputs h
  | tldA =>
    rcases execTldA_cases s with e | e
    · exact tileLoad_sameInputs (e.symm.trans h)
    · cases e.symm.trans h
      exact sameInputs_raiseFault s eAlign
  | tstA =>
    rcases execTstA_cases s with e | e
    · exact tileStore_sameInputs (e.symm.trans h)
    · cases e.symm.trans h
      exact sameInputs_raiseFault s eAlign

/-- Settles O51: registers 2 to 9 are inputs of every instruction. -/
theorem blockNeverWritesDescriptor : Obligations.BlockNeverWritesDescriptor := by
  intro s t i h n h2 h9
  obtain ⟨-, hsrc, hsrcLen, hwidth, hheight, hsstride, hdst, hdstLen, hdstride⟩ := exec_sameInputs h
  interval_cases n
  exacts [hsrc, hsrcLen, hwidth, hheight, hsstride, hdst, hdstLen, hdstride]

@[simp] theorem setDescriptor_cfg (s : State) (n : Nat) (v : Word) : (s.setDescriptor n v).cfg = s.cfg := by
  unfold State.setDescriptor
  split <;> rfl

@[simp] theorem reservedCommand_cfg (s : State) : (reservedCommand s).cfg = s.cfg := by
  unfold reservedCommand
  split <;> rfl

theorem writeReg_cfg {n : Nat} {v : Word} {s t : State} (h : writeReg n v s = .next t) : t.cfg = s.cfg := by
  by_cases hn : n = 0
  · subst hn
    rcases writeCommand_cases v s with ⟨-, e⟩ | ⟨-, e⟩
    · exact (exec_sameInputs (i := .convert) (e.symm.trans h)).cfg
    · cases e.symm.trans h
      exact reservedCommand_cfg s
  · cases (writeReg_pos hn v s).symm.trans h
    split
    · exact setDescriptor_cfg s n v
    · rfl

/-- No operation of the surroundings changes the constants, reset included (R33, R290). -/
theorem envOp_cfg {op : EnvOp} {s t : State} (h : envOp op s = .next t) : t.cfg = s.cfg := by
  cases op with
  | rd n | poll | back rs | reset =>
    cases h
    rfl
  | wr n v =>
    simp only [envOp] at h
    split_ifs at h
    exact writeReg_cfg h
  | memRd a | memWr a b =>
    simp only [envOp] at h
    split_ifs at h
    cases h
    rfl

/-- A step of the sequencer runs the instruction of its phase. -/
theorem exec_of_sequencerStep {s t : State} (h : sequencerStep s = .next t) :
    ∃ i, s.fetched = some i ∧ exec i s = .next t := by
  rw [sequencerStep_eq] at h
  cases hi : s.fetched with
  | none => simp [hi] at h
  | some i => exact ⟨i, rfl, by simpa [hi] using h⟩

theorem step_cfg {s t : State} (h : step s = .next t) : t.cfg = s.cfg := by
  obtain ⟨-, rest, ⟨-, -, hseq⟩ | ⟨op, ops, -, -, henv⟩⟩ := step_cases h
  · obtain ⟨i, -, hexec⟩ := exec_of_sequencerStep hseq
    exact (exec_sameInputs hexec).cfg
  · exact (envOp_cfg henv).trans rfl

/-- Settles O50: the configuration is kept, and the registers from 10 up are read from it. -/
theorem constantsNeverChange : Obligations.ConstantsNeverChange := by
  intro s t h
  refine ⟨step_cfg h, fun n hn => ?_⟩
  obtain ⟨k, rfl⟩ := Nat.exists_eq_add_of_le' hn
  rw [readReg_eq_resetOf, step_cfg h, ← readReg_eq_resetOf]

end Sys2Proof.Machine
end

/-! ## The invariant, with a call running and without one (R23, R199, R200) -/

section
namespace Sys2Proof.Machine

/-- What `State.Inv` says of a running call whatever its phase. Neither `PH`, `TAILF`, the vector registers nor the
surroundings occur in it, so it passes unchanged to a state that differs in these alone. -/
structure State.CallOk (s : State) : Prop where
  valid : s.cfg.valid = true
  regs : s.regsFit
  mem : s.memFits
  done : s.done = false
  err : s.err = false
  ecode : s.ecode = 0
  accepted : s.validate = 0
  path : s.path = s.alignClass
  row : s.row.toNat ≤ s.height.toNat
  sp : s.sp.toNat = (s.src.toNat + s.row.toNat * s.sstride.toNat) % 2 ^ s.cfg.aw
  dp : s.dp.toNat = (s.dst.toNat + s.row.toNat * s.dstride.toNat) % 2 ^ s.cfg.aw

theorem busy_of_idle {s : State} (h : s.ph = .idle) : s.busy = false := by
  rw [State.busy, h, Phase.running]

theorem busy_of_fault {s : State} (h : s.ph = .fault) : s.busy = false := by
  rw [State.busy, h, Phase.running]

/-- The invariant of a state in a call: what no phase changes, and where the phase stands in the rows and
columns. -/
theorem inv_iff_of_busy {s : State} (hb : s.busy = true) :
    s.Inv ↔ s.CallOk ∧ (s.ph ≠ .rchk → s.row.toNat < s.height.toNat) ∧ s.colsOk := by
  have hidle : s.ph ≠ .idle := fun h => by simp [busy_of_idle h] at hb
  have hfault : s.ph ≠ .fault := fun h => by simp [busy_of_fault h] at hb
  constructor
  · rintro ⟨hvalid, hregs, hmem, ⟨hrecord, -⟩, hrows, hcols⟩
    obtain ⟨hdone, herr, hecode⟩ := hrecord hb
    obtain ⟨haccepted, hpath, hrow, hlt, hsp, hdp⟩ := hrows hb
    exact ⟨⟨hvalid, hregs, hmem, hdone, herr, hecode, haccepted, hpath, hrow, hsp, hdp⟩, hlt, hcols⟩
  · rintro ⟨hc, hlt, hcols⟩
    exact ⟨hc.valid, hc.regs, hc.mem,
      ⟨fun _ => ⟨hc.done, hc.err, hc.ecode⟩, fun h => absurd h hidle, fun h => absurd h hidle,
        fun h => absurd h hfault⟩,
      fun _ => ⟨hc.accepted, hc.path, hc.row, hlt, hc.sp, hc.dp⟩, hcols⟩

/-- The invariant of an idle state: the registers, the memory and the last call's record. -/
theorem inv_iff_of_idle {s : State} (hph : s.ph = .idle) :
    s.Inv ↔ s.cfg.valid = true ∧ s.regsFit ∧ s.memFits ∧ (s.err = false → s.ecode = 0)
      ∧ (s.err = true → s.done = false ∧ 1 ≤ s.ecode.toNat ∧ s.ecode.toNat ≤ 7) := by
  have hb := busy_of_idle hph
  simp [hb, hph, State.statusLegal, State.colsOk, Phase.inTile]

/-- Columns are constrained from `TCHK` to `ST` only (R200). -/
theorem colsOk_of_outside {s : State} (hph : s.ph.inTile = false) (hne : s.ph ≠ .tchk) : s.colsOk := by
  simp [State.colsOk, hph, hne]

/-- A recorded `BusFault` keeps the invariant: it writes nothing but the record (R266). -/
theorem inv_raiseFault {s : State} (h : s.Inv) : (s.raiseFault eBus).Inv := by
  obtain ⟨hvalid, hregs, hmem, -⟩ := h
  exact ⟨hvalid, hregs, hmem, by simp [State.statusLegal], by simp, colsOk_of_outside rfl (by simp)⟩

/-- A phase from `LD` to `ST` is one of a running call. -/
theorem running_of_inTile {p : Phase} (h : p.inTile = true) : p.running = true := by
  cases p with
  | idle | rchk | tchk | radv | fault => cases h
  | ld | lum0 | lum1 | lum2 | lum3 | pk | st => rfl

end Sys2Proof.Machine
end

/-! ## Memory and registers under an update -/

section
namespace Sys2Proof.Machine

/-- Backed addresses are addresses of the space (R60, log 9). -/
theorem lt_of_memok {s : State} {a : Nat} (h : s.memok a = true) : a < 2 ^ s.cfg.aw := by
  simp only [State.memok, Bool.and_eq_true, decide_eq_true_eq] at h
  exact h.1

theorem memFits_write {s : State} (h : s.memFits) {a : Nat} (ha : a < 2 ^ s.cfg.aw) (b : Byte) :
    { s with mem := Memory.write s.mem a b }.memFits := by
  obtain ⟨hwf, hlt⟩ := h
  refine ⟨write_wf hwf a b, fun c hc => ?_⟩
  rcases mem_write_addr hc with hc | rfl
  · exact hlt c hc
  · exact ha

theorem memFits_writeList {s : State} (h : s.memFits) {a : Nat} {bs : List Byte}
    (ha : a + bs.length ≤ 2 ^ s.cfg.aw) : { s with mem := Memory.writeList s.mem a bs }.memFits := by
  obtain ⟨hwf, hlt⟩ := h
  refine ⟨writeList_wf hwf a bs, fun c hc => ?_⟩
  rcases mem_writeList_addr hc with hc | ⟨-, hc⟩
  · exact hlt c hc
  · exact Nat.lt_of_lt_of_le hc ha

/-- A byte written by the host keeps the invariant. -/
theorem inv_memWrite {s : State} (h : s.Inv) {a : Nat} (ha : a < 2 ^ s.cfg.aw) (b : Byte) :
    { s with mem := Memory.write s.mem a b }.Inv := by
  obtain ⟨hvalid, hregs, hmem, hrest⟩ := h
  exact ⟨hvalid, hregs, memFits_write hmem ha b, hrest⟩

theorem regsFit_setCol {s : State} (h : s.regsFit) {col : Word} (hc : col.toNat < 2 ^ s.cfg.aw) :
    { s with col := col }.regsFit := by
  obtain ⟨h2, h3, h4, h5, h6, h7, h8, h9, hrow, -, hsp, hdp⟩ := h
  exact ⟨h2, h3, h4, h5, h6, h7, h8, h9, hrow, hc, hsp, hdp⟩

theorem State.CallOk.setCol {s : State} (h : s.CallOk) {col : Word} (hc : col.toNat < 2 ^ s.cfg.aw) :
    { s with col := col }.CallOk :=
  { h with regs := regsFit_setCol h.regs hc }

/-- A store of 16 backed bytes keeps what holds throughout a call. -/
theorem State.CallOk.store {s : State} (h : s.CallOk) {a : Nat} (ha : ∀ j < 16, s.memok (a + j) = true)
    (v : ByteVec) : { s with mem := Memory.writeList s.mem a v.toList }.CallOk := by
  have hlast := lt_of_memok (ha 15 (by omega))
  have hend : a + v.toList.length ≤ 2 ^ s.cfg.aw := by
    rw [Vector.length_toList]
    omega
  exact { h with mem := memFits_writeList h.mem hend }

end Sys2Proof.Machine
end

/-! ## Alignment of a call on the aligned path (R64, R203) -/

section
namespace Sys2Proof.Machine

theorem alignClass_iff (s : State) : s.alignClass = true ↔
    16 ∣ s.src.toNat ∧ 16 ∣ s.dst.toNat ∧ 16 ∣ s.sstride.toNat ∧ 16 ∣ s.dstride.toNat := by
  simp [State.alignClass, aligned, Nat.dvd_iff_mod_eq_zero, and_assoc]

/-- Wrapping keeps alignment, since every valid width has more than four bits. -/
theorem dvd_wrapped_iff {c : Config} (h : c.valid = true) (n : Nat) : 16 ∣ n % 2 ^ c.aw ↔ 16 ∣ n := by
  have hpow : 2 ^ 4 ∣ 2 ^ c.aw := Nat.pow_dvd_pow 2 (by have := le_aw_of_valid h; omega)
  exact Nat.dvd_mod_iff hpow

/-- On the aligned path both row pointers are aligned in every row, and so are both addresses of a tile whose column
is a multiple of 16 (R203). -/
theorem State.CallOk.aligned_addresses {s : State} (h : s.CallOk) (hpath : s.path = true)
    (hcol : 16 ∣ s.col.toNat) : aligned s.ta = true ∧ aligned s.da = true := by
  obtain ⟨hsrc, hdst, hsstride, hdstride⟩ := (alignClass_iff s).1 (h.path ▸ hpath)
  have hsp : 16 ∣ s.sp.toNat := by
    rw [h.sp, dvd_wrapped_iff h.valid]
    exact Nat.dvd_add hsrc (Dvd.dvd.mul_left hsstride _)
  have hdp : 16 ∣ s.dp.toNat := by
    rw [h.dp, dvd_wrapped_iff h.valid]
    exact Nat.dvd_add hdst (Dvd.dvd.mul_left hdstride _)
  have hta : 16 ∣ s.ta := (dvd_wrapped_iff h.valid _).2 (Nat.dvd_add hsp (Dvd.dvd.mul_left hcol 4))
  have hda : 16 ∣ s.da := (dvd_wrapped_iff h.valid _).2 (Nat.dvd_add hdp hcol)
  simpa [aligned] using And.intro (Nat.mod_eq_zero_of_dvd hta) (Nat.mod_eq_zero_of_dvd hda)

end Sys2Proof.Machine
end

/-! ## Every micro-operation keeps the invariant (R170 to R176, R194 to R196) -/

section
namespace Sys2Proof.Machine

/-- Validation passes when none of the six checks fails (R223). -/
theorem validate_eq_zero_iff (s : State) : s.validate = 0 ↔
    s.nullFails = false ∧ s.widthFails = false ∧ s.strideFails = false ∧ s.sizeFails = false
      ∧ s.rangeFails = false ∧ s.overlapFails = false := by
  unfold State.validate
  split_ifs <;> simp_all [eNull, eWidth, eStride, eSize, eRange, eOverlap]

/-- A call's rows have a whole tile at least (R223, check 2). -/
theorem State.CallOk.width_ge {s : State} (h : s.CallOk) : 16 ≤ s.width.toNat := by
  obtain ⟨-, hwidth, -⟩ := (validate_eq_zero_iff s).1 h.accepted
  simpa [State.widthFails] using hwidth

/-- Moving on within a tile, whatever the vector registers become: `LD` to `LUM0`, the four `LUMA`, `PACK`. -/
theorem inv_within_tile {s : State} (h : s.Inv) (hs : s.ph.inTile = true) {p : Phase} (hp : p.inTile = true)
    (sv : Vector ByteVec 4) (lv : Vector LaneVec 4) (ov : ByteVec) :
    { s with sv := sv, lv := lv, ov := ov, ph := p }.Inv := by
  obtain ⟨hc, hlt, hmain, htail, -⟩ := (inv_iff_of_busy (running_of_inTile hs)).1 h
  have hrow := hlt (by rintro e; simp [e, Phase.inTile] at hs)
  refine (inv_iff_of_busy (running_of_inTile hp)).2
    ⟨{ hc with }, fun _ => hrow, fun _ => hmain hs, fun _ => htail hs, ?_⟩
  rintro rfl
  cases hp

theorem inv_rchk {s t : State} (h : s.Inv) (hph : s.ph = .rchk) (ht : execRchk s = .next t) : t.Inv := by
  obtain ⟨hc, -, -⟩ := (inv_iff_of_busy (by rw [State.busy, hph, Phase.running])).1 h
  unfold execRchk at ht
  split_ifs at ht with hrow <;> cases ht
  · exact (inv_iff_of_idle rfl).2 ⟨hc.valid, hc.regs, hc.mem, fun _ => hc.ecode,
      fun he => absurd (hc.err.symm.trans he) (by decide)⟩
  · have hne : s.row.toNat ≠ s.height.toNat := fun e => hrow (BitVec.eq_of_toNat_eq e)
    have hlt : s.row.toNat < s.height.toNat := Nat.lt_of_le_of_ne hc.row hne
    have hc' := hc.setCol (col := 0) (by simp)
    exact (inv_iff_of_busy rfl).2 ⟨{ hc' with }, fun _ => hlt, by simp [State.colsOk, Phase.inTile]⟩

/-- The start column of the tail tile, `WIDTH - 16`, does not wrap (R195). -/
theorem State.CallOk.tail_col {s : State} (h : s.CallOk) :
    (wrap s.cfg (s.width.toNat + 2 ^ s.cfg.aw - 16)).toNat = s.width.toNat - 16 := by
  obtain ⟨-, -, hwidth, -⟩ := h.regs
  have hge := h.width_ge
  rw [wrap_toNat (aw_le_of_valid h.valid), Nat.sub_add_comm hge, Nat.add_mod_right,
    Nat.mod_eq_of_lt (by omega)]

theorem inv_tchk {s t : State} (h : s.Inv) (hph : s.ph = .tchk) (ht : execTchk s = .next t) : t.Inv := by
  obtain ⟨hc, hlt, -, -, hcols⟩ := (inv_iff_of_busy (by rw [State.busy, hph, Phase.running])).1 h
  obtain ⟨htailf, hmod, -⟩ := hcols hph
  have hrow := hlt (by simp [hph])
  obtain ⟨hawd, -, -, hsum⟩ := awd_spec s.width.toNat
  unfold execTchk at ht
  split_ifs at ht with hcol hwidth <;> cases ht
  · have hfit : s.col.toNat + 16 ≤ awd s.width.toNat := by omega
    exact (inv_iff_of_busy rfl).2 ⟨{ hc with }, fun _ => hrow, fun _ _ => ⟨hmod, hfit⟩,
      fun _ ht => absurd (htailf.symm.trans ht) (by decide), by simp⟩
  · have hge := hc.width_ge
    have hend : (wrap s.cfg (s.width.toNat + 2 ^ s.cfg.aw - 16)).toNat + 16 = s.width.toNat := by
      rw [hc.tail_col]
      omega
    have hpart : s.width.toNat % 16 ≠ 0 := by omega
    have hc' := hc.setCol (wrap_lt s.cfg (aw_le_of_valid hc.valid) (s.width.toNat + 2 ^ s.cfg.aw - 16))
    exact (inv_iff_of_busy rfl).2 ⟨{ hc' with }, fun _ => hrow, by simp, fun _ _ => ⟨hend, hpart⟩, by simp⟩
  · exact (inv_iff_of_busy rfl).2 ⟨{ hc with }, fun _ => hrow, colsOk_of_outside rfl (by simp)⟩

theorem inv_tileLoad {s t : State} (h : s.Inv) (hph : s.ph = .ld) (ht : tileLoad s = .next t) : t.Inv := by
  rcases tileLoad_cases s with ⟨-, e⟩ | ⟨-, e⟩ <;> cases e.symm.trans ht
  · exact inv_within_tile h (by rw [hph, Phase.inTile]) rfl (tileBytes s.mem s.ta) s.lv s.ov
  · exact inv_raiseFault h

theorem inv_tileStore {s t : State} (h : s.Inv) (hph : s.ph = .st) (ht : tileStore s = .next t) : t.Inv := by
  obtain ⟨hc, hlt, hmain, -⟩ := (inv_iff_of_busy (by rw [State.busy, hph, Phase.running])).1 h
  have hrow := hlt (by simp [hph])
  rcases tileStore_cases s with ⟨hbacked, e⟩ | ⟨-, e⟩ <;> cases e.symm.trans ht
  · have hc' := hc.store hbacked s.ov
    unfold State.afterStore
    split_ifs with htailf
    · exact (inv_iff_of_busy rfl).2 ⟨{ hc' with }, fun _ => hrow, colsOk_of_outside rfl (by simp)⟩
    · obtain ⟨hmod, hfit⟩ := hmain (by rw [hph, Phase.inTile]) (Bool.eq_false_of_not_eq_true htailf)
      obtain ⟨-, -, hwidth, -⟩ := hc.regs
      obtain ⟨-, hawd, -⟩ := awd_spec s.width.toNat
      have hcol : (wrap s.cfg (s.col.toNat + 16)).toNat = s.col.toNat + 16 :=
        wrap_of_lt (aw_le_of_valid hc.valid) (by omega)
      have hc'' := hc'.setCol (wrap_lt s.cfg (aw_le_of_valid hc.valid) (s.col.toNat + 16))
      refine (inv_iff_of_busy rfl).2 ⟨{ hc'' with }, fun _ => hrow, by simp [Phase.inTile], by simp [Phase.inTile],
        fun _ => ⟨Bool.eq_false_of_not_eq_true htailf, ?_⟩⟩
      rw [hcol]
      exact ⟨by omega, hfit⟩
  · exact inv_raiseFault h

/-- A row pointer after `RADV` is the one of the next row, modulo the address space (R196, R199). -/
theorem next_row_pointer (base row stride m : Nat) :
    ((base + row * stride) % m + stride) % m = (base + (row + 1) * stride) % m := by
  rw [Nat.mod_add_mod, Nat.add_one_mul, Nat.add_assoc]

theorem inv_radv {s t : State} (h : s.Inv) (hph : s.ph = .radv) (ht : execRadv s = .next t) : t.Inv := by
  obtain ⟨hc, hlt, -⟩ := (inv_iff_of_busy (by rw [State.busy, hph, Phase.running])).1 h
  have hrow := hlt (by simp [hph])
  obtain ⟨hsrc, hsrcLen, hwidth, hheight, hsstride, hdst, hdstLen, hdstride, -, hcol, -, -⟩ := hc.regs
  have haw := aw_le_of_valid hc.valid
  have hnext : (wrap s.cfg (s.row.toNat + 1)).toNat = s.row.toNat + 1 := wrap_of_lt haw (by omega)
  cases ht
  refine (inv_iff_of_busy rfl).2 ⟨{ hc with regs := ?_, row := ?_, sp := ?_, dp := ?_ }, fun hne => absurd rfl hne,
    colsOk_of_outside rfl (by simp)⟩
  · exact ⟨hsrc, hsrcLen, hwidth, hheight, hsstride, hdst, hdstLen, hdstride, wrap_lt _ haw _, hcol,
      wrap_lt _ haw _, wrap_lt _ haw _⟩
  · rw [hnext]
    exact hrow
  · rw [hnext, wrap_toNat haw, hc.sp, next_row_pointer]
  · rw [hnext, wrap_toNat haw, hc.dp, next_row_pointer]

/-- Where an aligned variant is issued its address is aligned (R191, R203). -/
theorem aligned_of_useAligned {s : State} (h : s.Inv) (ht : s.ph.inTile = true) (hu : s.useAligned = true) :
    aligned s.ta = true ∧ aligned s.da = true := by
  obtain ⟨hc, -, hmain, -⟩ := (inv_iff_of_busy (running_of_inTile ht)).1 h
  obtain ⟨hpath, htailf⟩ : s.path = true ∧ s.tailf = false := by simpa [State.useAligned] using hu
  obtain ⟨hmod, -⟩ := hmain ht htailf
  exact hc.aligned_addresses hpath (Nat.dvd_of_mod_eq_zero hmod)

/-- The sequencer keeps the invariant: the arm of each phase (R191). -/
theorem inv_fetched {s t : State} {i : Instr} (h : s.Inv) (hi : s.fetched = some i)
    (ht : exec i s = .next t) : t.Inv := by
  unfold State.fetched at hi
  cases hph : s.ph <;> rw [hph] at hi <;> cases hi
  case rchk => exact inv_rchk h hph ht
  case tchk => exact inv_tchk h hph ht
  case radv => exact inv_radv h hph ht
  case ld =>
    split_ifs at ht with hu
    · obtain ⟨hta, -⟩ := aligned_of_useAligned h (by rw [hph, Phase.inTile]) hu
      exact inv_tileLoad h hph ((if_pos hta).symm.trans ht)
    · exact inv_tileLoad h hph ht
  case st =>
    split_ifs at ht with hu
    · obtain ⟨-, hda⟩ := aligned_of_useAligned h (by rw [hph, Phase.inTile]) hu
      exact inv_tileStore h hph ((if_pos hda).symm.trans ht)
    · exact inv_tileStore h hph ht
  all_goals
    cases ht
    exact inv_within_tile h (by rw [hph, Phase.inTile]) rfl ..

end Sys2Proof.Machine
end

/-! ## Every operation of the surroundings keeps the invariant (R221 to R228, R290) -/

section
namespace Sys2Proof.Machine

theorem validate_toNat_le (s : State) : s.validate.toNat ≤ 7 := by
  unfold State.validate
  split_ifs <;> decide

/-- An accepted `CONVERT` starts in row 0 at the buffers' first bytes (R222). -/
theorem inv_startCall {s : State} (h : s.Inv) (hv : s.validate = 0) : s.clearRecord.startCall.Inv := by
  obtain ⟨hvalid, hregs, hmem, -⟩ := h
  obtain ⟨hsrc, hsrcLen, hwidth, hheight, hsstride, hdst, hdstLen, hdstride, -⟩ := hregs
  have hzero : (0 : Word).toNat < 2 ^ s.cfg.aw := Nat.two_pow_pos _
  refine (inv_iff_of_busy rfl).2 ⟨⟨hvalid, ?_, hmem, rfl, rfl, rfl, hv, rfl, Nat.zero_le _, ?_, ?_⟩,
    fun hne => absurd rfl hne, colsOk_of_outside rfl (by simp)⟩
  · exact ⟨hsrc, hsrcLen, hwidth, hheight, hsstride, hdst, hdstLen, hdstride, hzero, hzero, hsrc, hdst⟩
  · simp [Nat.mod_eq_of_lt hsrc]
  · simp [Nat.mod_eq_of_lt hdst]

/-- A refused command records a code of the table and leaves the block idle (R263). -/
theorem inv_refused {s : State} (h : s.Inv) (hph : s.ph = .idle) {code : BitVec 4} (hne : code ≠ 0)
    (hle : code.toNat ≤ 7) : (s.clearRecord.raiseRefused code).Inv := by
  obtain ⟨hvalid, hregs, hmem, -⟩ := h
  have hpos : 1 ≤ code.toNat := Nat.one_le_iff_ne_zero.2 fun e => hne (BitVec.eq_of_toNat_eq e)
  exact (inv_iff_of_idle (by exact hph)).2 ⟨hvalid, hregs, hmem, by simp, fun _ => ⟨rfl, hpos, hle⟩⟩

theorem regsFit_setDescriptor {s : State} (h : s.regsFit) (n : Nat) {v : Word} (hv : v.toNat < 2 ^ s.cfg.aw) :
    (s.setDescriptor n v).regsFit := by
  obtain ⟨h2, h3, h4, h5, h6, h7, h8, h9, hloop⟩ := h
  unfold State.setDescriptor
  split
  exacts [⟨hv, h3, h4, h5, h6, h7, h8, h9, hloop⟩, ⟨h2, hv, h4, h5, h6, h7, h8, h9, hloop⟩,
    ⟨h2, h3, hv, h5, h6, h7, h8, h9, hloop⟩, ⟨h2, h3, h4, hv, h6, h7, h8, h9, hloop⟩,
    ⟨h2, h3, h4, h5, hv, h7, h8, h9, hloop⟩, ⟨h2, h3, h4, h5, h6, hv, h8, h9, hloop⟩,
    ⟨h2, h3, h4, h5, h6, h7, hv, h9, hloop⟩, ⟨h2, h3, h4, h5, h6, h7, h8, hv, hloop⟩,
    ⟨h2, h3, h4, h5, h6, h7, h8, h9, hloop⟩]

/-- A descriptor write changes descriptor registers alone (R226). -/
theorem setDescriptor_frame (s : State) (n : Nat) (v : Word) :
    ∃ src srcLen width height sstride dst dstLen dstride, s.setDescriptor n v =
      { s with src := src, srcLen := srcLen, width := width, height := height, sstride := sstride, dst := dst,
               dstLen := dstLen, dstride := dstride } := by
  unfold State.setDescriptor
  split <;> exact ⟨_, _, _, _, _, _, _, _, rfl⟩

/-- An idle state has no call whose descriptor could change, so a write in `IDLE` keeps the invariant. -/
theorem inv_setDescriptor {s : State} (h : s.Inv) (hph : s.ph = .idle) (n : Nat) {v : Word}
    (hv : v.toNat < 2 ^ s.cfg.aw) : (s.setDescriptor n v).Inv := by
  obtain ⟨hvalid, hregs, hmem, hrecord⟩ := (inv_iff_of_idle hph).1 h
  have hregs' := regsFit_setDescriptor hregs n hv
  obtain ⟨_, _, _, _, _, _, _, _, e⟩ := setDescriptor_frame s n v
  rw [e] at hregs' ⊢
  exact (inv_iff_of_idle (by exact hph)).2 ⟨hvalid, hregs', hmem, hrecord⟩

/-- A command keeps the invariant, accepted, refused, reserved or ignored (R221 to R224). -/
theorem inv_writeCommand {s t : State} (h : s.Inv) {v : Word} (ht : writeCommand v s = .next t) : t.Inv := by
  rcases writeCommand_cases v s with ⟨-, e⟩ | ⟨-, e⟩
  · have hconvert := e.symm.trans ht
    unfold execConvert convertIdle at hconvert
    split_ifs at hconvert with hph hv <;> cases hconvert
    · exact inv_startCall h hv
    · exact inv_refused h hph hv (validate_toNat_le s)
    · exact h
  · cases e.symm.trans ht
    unfold reservedCommand
    split_ifs with hph
    · exact inv_refused h hph (by decide) (by decide)
    · exact h

theorem inv_writeReg {s t : State} (h : s.Inv) {n : Nat} {v : Word} (hv : v.toNat < 2 ^ s.cfg.aw)
    (ht : writeReg n v s = .next t) : t.Inv := by
  by_cases hn : n = 0
  · subst hn
    exact inv_writeCommand h ht
  · cases (writeReg_pos hn v s).symm.trans ht
    split_ifs with hph
    · exact inv_setDescriptor h hph n hv
    · exact h

/-- Registers that are all 0, in `IDLE` with no error recorded, meet the invariant whatever fits in memory. -/
theorem inv_of_reset {c : Config} {m : Memory} (hc : c.valid = true)
    (hm : { State.resetOf c with mem := m }.memFits) : { State.resetOf c with mem := m }.Inv := by
  have hzero : (0 : Word).toNat < 2 ^ c.aw := Nat.two_pow_pos _
  exact (inv_iff_of_idle rfl).2 ⟨hc, ⟨hzero, hzero, hzero, hzero, hzero, hzero, hzero, hzero, hzero, hzero, hzero,
    hzero⟩, hm, fun _ => rfl, by simp⟩

theorem inv_envOp {s t : State} {op : EnvOp} (h : s.Inv) (ht : envOp op s = .next t) : t.Inv := by
  cases op with
  | rd n | poll | back rs =>
    cases ht
    exact h
  | wr n v =>
    simp only [envOp] at ht
    split_ifs at ht with hv
    exact inv_writeReg h hv ht
  | memRd a =>
    simp only [envOp] at ht
    split_ifs at ht
    cases ht
    exact h
  | memWr a b =>
    simp only [envOp] at ht
    split_ifs at ht with ha
    cases ht
    exact inv_memWrite h (Nat.lt_of_not_le ha) b
  | reset =>
    obtain ⟨hvalid, -, hmem, -⟩ := h
    cases ht
    exact inv_of_reset hvalid hmem

/-- Settles O52: nothing is listed in memory after reset (log 4). -/
theorem invHoldsAtReset : Obligations.InvHoldsAtReset := fun _ hc =>
  inv_of_reset hc ⟨rfl, by simp⟩

/-- Settles O53: a step is one of the sequencer or one of the surroundings, and neither the turns nor the pending
operations it uses up occur in the invariant. -/
theorem invKeptByEveryStep : Obligations.InvKeptByEveryStep := by
  intro s t h hstep
  obtain ⟨-, rest, ⟨-, -, hseq⟩ | ⟨op, ops, -, -, henv⟩⟩ := step_cases hstep
  · obtain ⟨i, hi, hexec⟩ := exec_of_sequencerStep hseq
    exact inv_fetched (s := { s with turns := rest }) h hi hexec
  · exact inv_envOp (s := { s with turns := rest, env := ops }) h henv

end Sys2Proof.Machine
end

/-! ## A tile access with an unbacked byte (R62, R265, R266) -/

section
namespace Sys2Proof.Machine

/-- One byte that is not backed is enough for a load of the whole tile to raise `BusFault`. -/
theorem tileLoad_of_unbacked {s : State} {j : Nat} (hj : j < 64) (h : s.memok (s.ta + j) = false) :
    tileLoad s = .next (s.raiseFault eBus) := by
  rcases tileLoad_cases s with ⟨hbacked, -⟩ | ⟨-, e⟩
  · exact absurd (hbacked j hj) (by simp [h])
  · exact e

/-- One byte that is not backed is enough for the whole store to raise `BusFault`. -/
theorem tileStore_of_unbacked {s : State} {j : Nat} (hj : j < 16) (h : s.memok (s.da + j) = false) :
    tileStore s = .next (s.raiseFault eBus) := by
  rcases tileStore_cases s with ⟨hbacked, -⟩ | ⟨-, e⟩
  · exact absurd (hbacked j hj) (by simp [h])
  · exact e

/-- At an aligned address `TLD.A` is the common load (R171, R173). -/
theorem execTldA_of_aligned {s : State} (h : s.ta % 16 = 0) : execTldA s = tileLoad s :=
  if_pos (decide_eq_true h)

/-- At an aligned address `TST.A` is the common store (R175, R177). -/
theorem execTstA_of_aligned {s : State} (h : s.da % 16 = 0) : execTstA s = tileStore s :=
  if_pos (decide_eq_true h)

/-- Settles O24: the unaligned variants are the common load and store, the aligned ones are at a multiple of 16. -/
theorem unbackedAccessRaisesBusFault : Obligations.UnbackedAccessRaisesBusFault := by
  intro s j
  constructor
  · intro hj h
    have hload := tileLoad_of_unbacked hj h
    exact ⟨hload, fun ha => (execTldA_of_aligned ha).trans hload⟩
  · intro hj h
    have hstore := tileStore_of_unbacked hj h
    exact ⟨hstore, fun ha => (execTstA_of_aligned ha).trans hstore⟩

end Sys2Proof.Machine
end

/-! ## The host's accesses of memory (R77, R230) -/

section
namespace Sys2Proof.Machine

/-- A host write breaks its duty when a call runs and the byte is one of either buffer (R77). -/
theorem writeBreaksDuty_iff (s : State) (a : Nat) : s.writeBreaksDuty a = true ↔ s.busy = true
    ∧ (s.src.toNat ≤ a ∧ a < s.src.toNat + s.srcLen.toNat
      ∨ s.dst.toNat ≤ a ∧ a < s.dst.toNat + s.dstLen.toNat) := by
  simp [State.writeBreaksDuty, State.inSource, State.inDest]

/-- A host read breaks its duty when a call runs and the byte is one of the destination (R77). -/
theorem readBreaksDuty_iff (s : State) (a : Nat) : s.readBreaksDuty a = true ↔ s.busy = true
    ∧ s.dst.toNat ≤ a ∧ a < s.dst.toNat + s.dstLen.toNat := by
  simp [State.readBreaksDuty, State.inDest]

/-- At an address of the space the host's write is refused or stores its byte. -/
theorem envOp_memWr {s : State} {a : Nat} (ha : a < 2 ^ s.cfg.aw) (b : Byte) :
    envOp (.memWr a b) s = if s.writeBreaksDuty a then .refused .hostDutyBroken
      else .next { s with mem := Memory.write s.mem a b } :=
  if_neg (Nat.not_le_of_lt ha)

/-- At an address of the space the host's read is refused or answers the byte. -/
theorem envOp_memRd {s : State} {a : Nat} (ha : a < 2 ^ s.cfg.aw) :
    envOp (.memRd a) s = if s.readBreaksDuty a then .refused .hostDutyBroken
      else .next { s with reply := some ((Memory.read s.mem a).setWidth 64) } :=
  if_neg (Nat.not_le_of_lt ha)

/-- Settles O43: inside the space the duty is the only check left. -/
theorem hostDutyBrokenRefused : Obligations.HostDutyBrokenRefused := by
  intro s a b hbusy ha
  constructor
  · intro hbuffer
    rw [envOp_memWr ha, if_pos ((writeBreaksDuty_iff s a).2 ⟨hbusy, hbuffer⟩)]
  · intro hdest
    rw [envOp_memRd ha, if_pos ((readBreaksDuty_iff s a).2 ⟨hbusy, hdest⟩)]

/-- Outside a call the host's write stores its byte, wherever it lies. -/
theorem envOp_memWr_of_not_busy {s : State} {a : Nat} (hb : s.busy = false) (ha : a < 2 ^ s.cfg.aw) (b : Byte) :
    envOp (.memWr a b) s = .next { s with mem := Memory.write s.mem a b } := by
  rw [envOp_memWr ha, if_neg (by simp [writeBreaksDuty_iff, hb])]

/-- Outside a call the host's read answers the byte, wherever it lies. -/
theorem envOp_memRd_of_not_busy {s : State} {a : Nat} (hb : s.busy = false) (ha : a < 2 ^ s.cfg.aw) :
    envOp (.memRd a) s = .next { s with reply := some ((Memory.read s.mem a).setWidth 64) } := by
  rw [envOp_memRd ha, if_neg (by simp [readBreaksDuty_iff, hb])]

/-- Settles O44: outside a call neither access is refused, and memory reads after a write as it should. -/
theorem hostMemoryWriteReadBack : Obligations.HostMemoryWriteReadBack := by
  intro s a b hb ha hwf
  refine ⟨_, envOp_memWr_of_not_busy hb ha b, rfl, ?_, fun a' hne => read_write_other s.mem b hne⟩
  have hread := envOp_memRd_of_not_busy (s := { s with mem := Memory.write s.mem a b }) hb ha
  rwa [read_write_same hwf] at hread

end Sys2Proof.Machine
end

/-! ## What a step does to memory (R60, R62, log 4) -/

section
namespace Sys2Proof.Machine

@[simp] theorem afterStore_mem (s : State) : s.afterStore.mem = s.mem := by
  unfold State.afterStore
  split <;> rfl

@[simp] theorem setDescriptor_mem (s : State) (n : Nat) (v : Word) : (s.setDescriptor n v).mem = s.mem := by
  obtain ⟨_, _, _, _, _, _, _, _, e⟩ := setDescriptor_frame s n v
  rw [e]

@[simp] theorem reservedCommand_mem (s : State) : (reservedCommand s).mem = s.mem := by
  unfold reservedCommand
  split <;> rfl

theorem execConvert_mem {s t : State} (h : execConvert s = .next t) : t.mem = s.mem := by
  unfold execConvert convertIdle at h
  split_ifs at h <;> cases h <;> rfl

theorem tileLoad_mem {s t : State} (h : tileLoad s = .next t) : t.mem = s.mem := by
  rcases tileLoad_cases s with ⟨-, e⟩ | ⟨-, e⟩ <;> cases e.symm.trans h <;> rfl

theorem tileStore_mem {s t : State} (h : tileStore s = .next t) :
    t.mem = s.mem ∨ t.mem = Memory.writeList s.mem s.da s.ov.toList := by
  rcases tileStore_cases s with ⟨-, e⟩ | ⟨-, e⟩ <;> cases e.symm.trans h
  · exact .inr (afterStore_mem _)
  · exact .inl rfl

/-- An instruction leaves memory as it is or stores the output vector at `DA`. -/
theorem exec_mem {i : Instr} {s t : State} (h : exec i s = .next t) :
    t.mem = s.mem ∨ t.mem = Memory.writeList s.mem s.da s.ov.toList := by
  cases i with
  | convert => exact .inl (execConvert_mem h)
  | rchk | tchk =>
    simp only [exec, execRchk, execTchk] at h
    split_ifs at h <;> cases h <;> exact .inl rfl
  | luma g | pack | radv =>
    cases h
    exact .inl rfl
  | tldU => exact .inl (tileLoad_mem h)
  | tstU => exact tileStore_mem h
  | tldA =>
    rcases execTldA_cases s with e | e
    · exact .inl (tileLoad_mem (e.symm.trans h))
    · cases e.symm.trans h
      exact .inl rfl
  | tstA =>
    rcases execTstA_cases s with e | e
    · exact tileStore_mem (e.symm.trans h)
    · cases e.symm.trans h
      exact .inl rfl

/-- A register access never touches memory. -/
theorem writeReg_mem {n : Nat} {v : Word} {s t : State} (h : writeReg n v s = .next t) : t.mem = s.mem := by
  by_cases hn : n = 0
  · subst hn
    rcases writeCommand_cases v s with ⟨-, e⟩ | ⟨-, e⟩
    · exact execConvert_mem (e.symm.trans h)
    · cases e.symm.trans h
      exact reservedCommand_mem s
  · cases (writeReg_pos hn v s).symm.trans h
    split
    · exact setDescriptor_mem s n v
    · rfl

/-- An operation of the surroundings leaves memory as it is or writes one byte. -/
theorem envOp_mem {op : EnvOp} {s t : State} (h : envOp op s = .next t) :
    t.mem = s.mem ∨ ∃ a b, t.mem = Memory.write s.mem a b := by
  cases op with
  | rd n | poll | back rs | reset =>
    cases h
    exact .inl rfl
  | wr n v =>
    simp only [envOp] at h
    split_ifs at h
    exact .inl (writeReg_mem h)
  | memRd a =>
    simp only [envOp] at h
    split_ifs at h
    cases h
    exact .inl rfl
  | memWr a b =>
    simp only [envOp] at h
    split_ifs at h
    cases h
    exact .inr ⟨a, b, rfl⟩

/-- Settles O49: the sequencer writes memory by a list of bytes, the surroundings by one byte, and both writes
keep the form. -/
theorem memoryStaysCanonical : Obligations.MemoryStaysCanonical := by
  intro s t hwf hstep
  obtain ⟨-, rest, ⟨-, -, hseq⟩ | ⟨op, ops, -, -, henv⟩⟩ := step_cases hstep
  · obtain ⟨i, -, hexec⟩ := exec_of_sequencerStep hseq
    rcases exec_mem hexec with e | e <;> rw [e]
    · exact hwf
    · exact writeList_wf hwf _ _
  · rcases envOp_mem henv with e | ⟨a, b, e⟩ <;> rw [e]
    · exact hwf
    · exact write_wf hwf a b

end Sys2Proof.Machine
end

/-! ## The addresses of a running call (R66 to R68, R78) -/

section
namespace Sys2Proof.Machine

/-- What validation grants of the source and of the destination: a row's pixels fit its stride, the rows fit the buffer,
and the buffer fits the space (R223, checks 3 to 5). -/
theorem State.CallOk.buffers_fit {s : State} (h : s.CallOk) :
    (4 * s.width.toNat ≤ s.sstride.toNat ∧ s.height.toNat * s.sstride.toNat ≤ s.srcLen.toNat
      ∧ s.src.toNat + s.srcLen.toNat ≤ 2 ^ s.cfg.aw)
    ∧ s.width.toNat ≤ s.dstride.toNat ∧ s.height.toNat * s.dstride.toNat ≤ s.dstLen.toNat
      ∧ s.dst.toNat + s.dstLen.toNat ≤ 2 ^ s.cfg.aw := by
  obtain ⟨-, -, hstride, hsize, hrange, -⟩ := (validate_eq_zero_iff s).1 h.accepted
  simp only [State.strideFails, State.sizeFails, State.rangeFails, Bool.or_eq_false_iff,
    decide_eq_false_iff_not, Nat.not_lt] at hstride hsize hrange
  obtain ⟨hsstride, hdstride⟩ := hstride
  obtain ⟨hsrcRows, hdstRows⟩ := hsize
  obtain ⟨hsrcEnd, hdstEnd⟩ := hrange
  exact ⟨⟨hsstride, hsrcRows, hsrcEnd⟩, hdstride, hdstRows, hdstEnd⟩

/-- In phases `LD` to `ST` the current tile, main or tail, lies within a row of the image (R199, R200). -/
theorem tile_in_row {s : State} (h : s.Inv) (ht : s.ph.inTile = true) :
    s.CallOk ∧ s.row.toNat < s.height.toNat ∧ s.col.toNat + 16 ≤ s.width.toNat := by
  obtain ⟨hc, hlt, hmain, htail, -⟩ := (inv_iff_of_busy (running_of_inTile ht)).1 h
  refine ⟨hc, hlt (by rintro e; simp [e, Phase.inTile] at ht), ?_⟩
  cases htailf : s.tailf with
  | false =>
    obtain ⟨-, hfit⟩ := hmain ht htailf
    obtain ⟨-, hawd, -⟩ := awd_spec s.width.toNat
    exact hfit.trans hawd
  | true =>
    obtain ⟨hend, -⟩ := htail ht htailf
    exact hend.le

/-- An access of `size` bytes at offset `off` of a row lies in the buffer, if the row's stride has room for it and the
rows fit the buffer; if the buffer fits the space, neither the row pointer nor the address wraps. -/
theorem access_in_buffer {base row height stride len m off size : Nat} (hrow : row < height)
    (hroom : off + size ≤ stride) (hrows : height * stride ≤ len) (hspace : base + len ≤ m) (hsize : 0 < size) :
    let a := ((base + row * stride) % m + off) % m
    base ≤ a ∧ a + size ≤ base + len ∧ a + size ≤ m ∧ a = base + row * stride + off := by
  have hnext : row * stride + stride ≤ len := by
    rw [← Nat.succ_mul]
    exact (Nat.mul_le_mul_right stride hrow).trans hrows
  have ha : ((base + row * stride) % m + off) % m = base + row * stride + off := by
    rw [Nat.mod_add_mod, Nat.mod_eq_of_lt (by omega)]
  rw [ha]
  omega

/-- Settles O55: in `LD` and `ST` the tile lies within its row, and validation makes room for the row. -/
theorem accessesStayInGrantedBuffers : Obligations.AccessesStayInGrantedBuffers := by
  intro s h
  constructor <;> intro hph <;>
    obtain ⟨hc, hrow, hcol⟩ := tile_in_row h (by rw [hph, Phase.inTile])
  · obtain ⟨⟨hstride, hrows, hspace⟩, -⟩ := hc.buffers_fit
    rw [State.ta, hc.sp]
    exact access_in_buffer hrow (by omega) hrows hspace (by omega)
  · obtain ⟨-, hstride, hrows, hspace⟩ := hc.buffers_fit
    rw [State.da, hc.dp]
    exact access_in_buffer hrow (by omega) hrows hspace (by omega)

end Sys2Proof.Machine
end

/-! ## The decoder and the encoder (R99 to R103) -/

section
namespace Sys2Proof

/-- Field `OP` is the number in bits 7:4. -/
theorem opField_toNat (w : BitVec 8) : (opField w).toNat = w.toNat / 16 := by
  rw [opField, BitVec.extractLsb'_toNat, Nat.shiftRight_eq_div_pow]
  exact Nat.mod_eq_of_lt (by omega)

/-- Field `G` is the number in bits 1:0. -/
theorem gField_val (w : BitVec 8) : (gField w).val = w.toNat % 4 :=
  BitVec.extractLsb'_toNat 0 2 w

/-- A word whose bit 2 is 0 is put together from its own fields (R100). -/
theorem microWord_fields {w : BitVec 8} (hz : zeroField w = false) :
    microWord (opField w) (aField w) (w.extractLsb' 0 2) = w := by
  refine BitVec.eq_of_getLsbD_eq fun j hj => ?_
  have hbit : w[2] = false := hz
  change (opField w ++ BitVec.ofBool (aField w) ++ 0#1 ++ w.extractLsb' 0 2).getLsbD j = w.getLsbD j
  simp only [BitVec.getLsbD_append, opField, aField]
  interval_cases j <;> simp [hbit]

/-- A word is determined by its fields, bit 2 being 0. -/
theorem microWord_eq_of_fields {w : BitVec 8} {op : BitVec 4} {a : Bool} {g : BitVec 2}
    (hop : (opField w).toNat = op.toNat) (ha : aField w = a) (hz : zeroField w = false)
    (hg : (gField w).val = g.toNat) : microWord op a g = w := by
  obtain rfl : opField w = op := BitVec.eq_of_toNat_eq hop
  obtain rfl : w.extractLsb' 0 2 = g := BitVec.eq_of_toNat_eq hg
  rw [← ha, microWord_fields hz]

/-- A word of format `U` is illegal, or decodes to the instruction it is the word of. -/
theorem decodeMicro_cases (w : BitVec 8) :
    decodeMicro w = .illegal ∨ ∃ i, decodeMicro w = .instr i ∧ encode i = .micro w := by
  unfold decodeMicro
  split
  case h_10 => exact .inl rfl
  case h_5 hop ha hz => exact .inr ⟨_, rfl, congrArg CodeWord.micro (microWord_eq_of_fields hop ha hz rfl)⟩
  all_goals
    next hop ha hz hg =>
      refine .inr ⟨_, rfl, congrArg CodeWord.micro ?_⟩
      exact microWord_eq_of_fields hop ha hz hg

/-- The one legal command word is 1 (R103). -/
theorem decodeCommand_eq (v : Word) : decodeCommand v = if v = 1 then .instr .convert else .reserved := by
  refine if_congr ⟨?_, ?_⟩ rfl rfl
  · rintro ⟨hopc, habove⟩
    have hlow : v.toNat % 16 = 1 := by simpa using congrArg BitVec.toNat hopc
    have hhigh : v.toNat / 16 = 0 := by simpa [Nat.shiftRight_eq_div_pow] using congrArg BitVec.toNat habove
    exact BitVec.eq_of_toNat_eq (by simp; omega)
  · rintro rfl
    decide

/-- Every instruction decodes from its own word. -/
theorem decode_encode (i : Instr) : decode (encode i) = .instr i := by
  cases i with
  | convert => exact Laws.RoundTrip.convert.1
  | rchk => exact Laws.RoundTrip.rchk.1
  | tchk => exact Laws.RoundTrip.tchk.1
  | tldU => exact Laws.RoundTrip.tldU.1
  | tldA => exact Laws.RoundTrip.tldA.1
  | luma g => exact (Laws.RoundTrip.luma g).1
  | pack => exact Laws.RoundTrip.pack.1
  | tstU => exact Laws.RoundTrip.tstU.1
  | tstA => exact Laws.RoundTrip.tstA.1
  | radv => exact Laws.RoundTrip.radv.1

/-- A word that decodes to an instruction is the word of that instruction. -/
theorem encode_of_decode {w : CodeWord} {i : Instr} (h : decode w = .instr i) : encode i = w := by
  cases w with
  | command v =>
    rw [decode, decodeCommand_eq] at h
    split at h
    next hv =>
      cases h
      rw [hv, encode]
    next => cases h
  | micro w =>
    rw [decode] at h
    rcases decodeMicro_cases w with hw | ⟨j, hw, henc⟩
    · cases hw.symm.trans h
    · cases hw.symm.trans h
      exact henc

/-- Settles O1: the decoder's cases give one direction, the constructors of `Instr` the other. -/
theorem decodeInvertsEncode : Obligations.DecodeInvertsEncode := by
  intro w i
  constructor
  · exact encode_of_decode
  · rintro rfl
    exact decode_encode i

/-- The legal words of format `U` by their fields (R102). -/
theorem decodeMicro_ne_illegal_iff (w : BitVec 8) : decodeMicro w ≠ .illegal ↔
    zeroField w = false ∧ 1 ≤ (opField w).toNat ∧ (opField w).toNat ≤ 7
      ∧ (aField w = true → (opField w).toNat = 3 ∨ (opField w).toNat = 6)
      ∧ ((gField w).val ≠ 0 → (opField w).toNat = 4) := by
  unfold decodeMicro
  split
  case h_10 =>
    -- a word that meets the four conditions would have matched the row of its `OP` and `A`
    refine iff_of_false (fun h => h rfl) ?_
    rintro ⟨hzero, hlow, hhigh, hvariant, hgroup⟩
    cases ha : aField w <;> simp_all <;> omega
  all_goals simp [*]

/-- The words of the opcode map of format `U` (R101). -/
theorem encode_micro_mem {i : Instr} {w : BitVec 8} (h : encode i = .micro w) :
    w ∈ [0x10, 0x20, 0x30, 0x38, 0x40, 0x41, 0x42, 0x43, 0x50, 0x60, 0x68, 0x70] := by
  cases i with
  | convert => cases h
  | luma g =>
    cases h
    revert g
    decide
  | _ =>
    cases h
    decide

/-- Settles O2: by the fields, and by the words of the twelve instructions of format `U`. -/
theorem legalMicroWords : Obligations.LegalMicroWords := by
  intro w
  refine ⟨?_, ?_, fun hmem => ?_⟩
  · rw [decode, decodeMicro_ne_illegal_iff, opField_toNat, gField_val, zeroField, aField]
  · intro hlegal
    obtain ⟨i, -, henc⟩ := (decodeMicro_cases w).resolve_left hlegal
    exact encode_micro_mem henc
  · revert w
    decide

/-- Settles O3, by the decoding lemmas of the opcode map's rows. -/
theorem writtenWordsDecode : Obligations.WrittenWordsDecode :=
  ⟨decode_convert, decode_rchk, decode_tldA, decode_luma_2, decode_pack, decode_tstU⟩

end Sys2Proof
end

/-! ## The luma of a pixel (R122 to R131) -/

section
namespace Sys2Proof.Machine

/-- The product of a channel and a weight, both zero-extended 16-bit sub-lanes below `2^15`, is exact (R122). -/
theorem toNat_channel_mul_weight (x : Byte) {k : Nat} (hk : k ≤ 32767) :
    ((x.setWidth 16).signExtend 32 * (BitVec.ofNat 16 k).signExtend 32).toNat = x.toNat * k := by
  have hx : x.toNat ≤ 255 := Nat.le_of_lt_succ x.isLt
  have hprod : x.toNat * k ≤ 255 * 32767 := Nat.mul_le_mul hx hk
  have hxmsb : (x.setWidth 16).msb = false := by
    rw [BitVec.msb_eq_false_iff_two_mul_lt, BitVec.toNat_setWidth]
    omega
  have hkmsb : (BitVec.ofNat 16 k).msb = false := by
    rw [BitVec.msb_eq_false_iff_two_mul_lt, BitVec.toNat_ofNat]
    omega
  rw [BitVec.signExtend_eq_setWidth_of_msb_false hxmsb, BitVec.signExtend_eq_setWidth_of_msb_false hkmsb,
    BitVec.toNat_mul, BitVec.toNat_setWidth_of_le (by omega), BitVec.toNat_setWidth_of_le (by omega),
    BitVec.toNat_setWidth_of_le (by omega), BitVec.toNat_ofNat, Nat.mod_eq_of_lt (by omega : k < 2 ^ 16),
    Nat.mod_eq_of_lt (by omega)]

/-- Step `P` of R126 does not wrap. -/
theorem madd16_rb_toNat {c : Config} (hr : c.wr ≤ 32767) (hb : c.wb ≤ 32767) (r b : Byte) :
    (madd16 (rbPair r b) (krbPair c)).toNat = r.toNat * c.wr + b.toNat * c.wb := by
  have hR : r.toNat * c.wr ≤ 255 * 32767 := Nat.mul_le_mul (Nat.le_of_lt_succ r.isLt) hr
  have hB : b.toNat * c.wb ≤ 255 * 32767 := Nat.mul_le_mul (Nat.le_of_lt_succ b.isLt) hb
  rw [madd16, rbPair, krbPair, BitVec.toNat_add, toNat_channel_mul_weight r hr, toNat_channel_mul_weight b hb,
    Nat.mod_eq_of_lt (by omega)]

/-- Step `Q` of R126 does not wrap. -/
theorem madd16_g0_toNat {c : Config} (hg : c.wg ≤ 32767) (g : Byte) :
    (madd16 (g0Pair g) (kg0Pair c)).toNat = g.toNat * c.wg := by
  have hzero : (0 : BitVec 16).signExtend 32 * (0 : BitVec 16).signExtend 32 = 0#32 := by decide
  rw [madd16, g0Pair, kg0Pair, hzero, BitVec.add_zero, toNat_channel_mul_weight g hg]

/-- `2^SHIFT` is twice `ROUND` (R121). -/
theorem two_pow_shift {c : Config} (hc : c.valid = true) : 2 ^ c.shift = 2 * 2 ^ (c.shift - 1) := by
  obtain ⟨⟨hlow, -⟩, -⟩ := (valid_iff c).1 hc
  rw [← Nat.pow_succ', Nat.succ_eq_add_one, Nat.sub_add_cancel hlow]

/-- Step `S` of R126 is at most `255 * 2^SHIFT`. -/
theorem weightedSum_le {c : Config} (hc : c.valid = true) (r g b : Byte) :
    r.toNat * c.wr + g.toNat * c.wg + b.toNat * c.wb ≤ 255 * 2 ^ c.shift := by
  obtain ⟨-, -, hsum, -⟩ := (valid_iff c).1 hc
  have hbyte (x : Byte) (k : Nat) : x.toNat * k ≤ 255 * k := Nat.mul_le_mul_right k (Nat.le_of_lt_succ x.isLt)
  have hR := hbyte r c.wr
  have hG := hbyte g c.wg
  have hB := hbyte b c.wb
  omega

/-- The five steps for one lane compute `luma` (R126, R128): no addition wraps, since `T` is below `256 * 2^15`. -/
theorem lumaLane_toNat {c : Config} (hc : c.valid = true) (r g b : Byte) :
    (lumaLane c r g b).toNat = lumaNat c r.toNat g.toNat b.toNat := by
  obtain ⟨⟨-, hshift⟩, ⟨hwr, hwg, hwb⟩, -⟩ := (valid_iff c).1 hc
  have hpow : 2 ^ c.shift ≤ 2 ^ 15 := Nat.pow_le_pow_right (by omega) hshift
  have hround := two_pow_shift hc
  have hS := weightedSum_le hc r g b
  simp only [lumaLane, lumaNat, Config.round, BitVec.toNat_ushiftRight, BitVec.toNat_add,
    BitVec.toNat_ofNat, madd16_rb_toNat hwr hwb, madd16_g0_toNat hwg, Nat.shiftRight_eq_div_pow]
  congr 1
  omega

/-- The scaled `luma` and its successor enclose `T` of R126. -/
theorem lumaNat_bounds (c : Config) (r g b : Nat) :
    lumaNat c r g b * 2 ^ c.shift ≤ r * c.wr + g * c.wg + b * c.wb + 2 ^ (c.shift - 1)
      ∧ r * c.wr + g * c.wg + b * c.wb + 2 ^ (c.shift - 1) < (lumaNat c r g b + 1) * 2 ^ c.shift :=
  ⟨Nat.div_mul_le_self _ _,
    (Nat.div_lt_iff_lt_mul (Nat.two_pow_pos _)).1 (Nat.lt_succ_self _)⟩

/-- `luma` of three bytes is at most 255 (R127). -/
theorem lumaNat_le {c : Config} (hc : c.valid = true) (r g b : Byte) :
    lumaNat c r.toNat g.toNat b.toNat ≤ 255 := by
  have hround := two_pow_shift hc
  have hpos : 0 < 2 ^ (c.shift - 1) := Nat.two_pow_pos _
  have hS := weightedSum_le hc r g b
  refine Nat.le_of_lt_succ (Nat.div_lt_of_lt_mul ?_)
  omega

/-- A gray `x` is kept if the weights' sum falls short of `2^SHIFT` by so little that `x` times the lack is at most
`ROUND`. -/
theorem lumaNat_gray {c : Config} (hc : c.valid = true) {x : Nat}
    (hx : x * 2 ^ c.shift ≤ x * (c.wr + c.wg + c.wb) + 2 ^ (c.shift - 1)) : lumaNat c x x x = x := by
  obtain ⟨-, -, hsum, -⟩ := (valid_iff c).1 hc
  have hround := two_pow_shift hc
  have hpos : 0 < 2 ^ (c.shift - 1) := Nat.two_pow_pos _
  have hle : x * (c.wr + c.wg + c.wb) ≤ x * 2 ^ c.shift := Nat.mul_le_mul_left x hsum
  rw [lumaNat, ← Nat.mul_add, ← Nat.mul_add]
  refine Nat.div_eq_of_lt_le hx ?_
  rw [Nat.succ_mul]
  omega

/-- White is kept by every valid configuration (R10 (d), R129). -/
theorem lumaNat_white {c : Config} (hc : c.valid = true) : lumaNat c 255 255 255 = 255 := by
  obtain ⟨-, -, -, hsum, -⟩ := (valid_iff c).1 hc
  exact lumaNat_gray hc (by omega)

end Sys2Proof.Machine
end

/-! ## `LUMA g` (R127 to R131) -/

section
namespace Sys2Proof.Machine

/-- Lane `i` that `LUMA g` writes comes from pixel `i` of its source vector (R123, R129). -/
theorem lane_of_luma {s t : State} {g : Fin 4} (h : exec (.luma g) s = .next t) (i : Fin 4) :
    (t.lv[g.val])[i.val] = lumaLane s.cfg (s.sv[g.val])[4 * i.val] (s.sv[g.val])[4 * i.val + 1]
      (s.sv[g.val])[4 * i.val + 2] := by
  cases h
  simp [lumaVec, chanR, chanG, chanB]

/-- The value of lane `i` is `luma` of pixel `i` (R128). -/
theorem lane_toNat_of_luma {s t : State} {g : Fin 4} (hc : s.cfg.valid = true)
    (h : exec (.luma g) s = .next t) (i : Fin 4) :
    ((t.lv[g.val])[i.val]).toNat = lumaNat s.cfg ((s.sv[g.val])[4 * i.val]).toNat
      ((s.sv[g.val])[4 * i.val + 1]).toNat ((s.sv[g.val])[4 * i.val + 2]).toNat := by
  rw [lane_of_luma h, lumaLane_toNat hc]

/-- The phase after `LUMA g`, as R129 writes it. -/
theorem lumaNext_eq (g : Fin 4) : lumaNext g =
    if g = 0 then .lum1 else if g = 1 then .lum2 else if g = 2 then .lum3 else .pk := by
  revert g
  decide

/-- Settles O26: each lane is `luma` of its pixel; the frame is O35 and the next phase. -/
theorem lumaComputesFormula : Obligations.LumaComputesFormula := by
  intro s g hc
  have hexec : exec (.luma g) s = .next _ := rfl
  obtain ⟨hframe, -⟩ := computeFrame s _ g
  obtain ⟨-, hother, -⟩ := hframe hexec
  refine ⟨_, hexec, lane_toNat_of_luma hc hexec, hother, ?_⟩
  rw [← lumaNext_eq]

/-- Settles O27, by the bound on `luma`. -/
theorem lumaNeverExceeds255 : Obligations.LumaNeverExceeds255 := by
  intro s t g i hc h
  rw [lane_toNat_of_luma hc h]
  exact lumaNat_le hc _ _ _

/-- The lanes depend on the R, G and B bytes alone (R124, R133). -/
theorem lumaVec_congr (c : Config) {v w : ByteVec} (h : ∀ i, chanR v i = chanR w i ∧ chanG v i = chanG w i
    ∧ chanB v i = chanB w i) : lumaVec c v = lumaVec c w := by
  unfold lumaVec
  congr 1
  funext i
  obtain ⟨hr, hg, hb⟩ := h i
  rw [hr, hg, hb]

/-- Settles O28: `LUMA g` reads the source vectors only in the lanes it computes. -/
theorem lumaIgnoresAlpha : Obligations.LumaIgnoresAlpha := by
  intro s v g h
  refine ⟨_, rfl, ?_⟩
  simp only [exec, execLuma, lumaVec_congr s.cfg h]

/-- Settles O29: `ROUND` is half of `2^SHIFT`, so the inequalities are twice those of the quotient. -/
theorem lumaRoundsToNearest : Obligations.LumaRoundsToNearest := by
  intro s t g i hc h
  obtain ⟨hlow, hhigh⟩ := lumaNat_bounds s.cfg ((s.sv[g.val])[4 * i.val]).toNat
    ((s.sv[g.val])[4 * i.val + 1]).toNat ((s.sv[g.val])[4 * i.val + 2]).toNat
  rw [← lane_toNat_of_luma hc h] at hlow hhigh
  have hround := two_pow_shift hc
  dsimp only
  rw [Nat.mul_assoc 2, Nat.mul_assoc 2]
  omega

/-- Settles O30: each of the three grays lacks little enough. -/
theorem lumaOfGrayPixels : Obligations.LumaOfGrayPixels := by
  intro s t g i x hc h hr hg hb
  have hlane := lane_toNat_of_luma hc h i
  rw [hr, hg, hb] at hlane
  refine ⟨?_, ?_, fun hsum => ?_⟩
  · rintro rfl
    exact BitVec.eq_of_toNat_eq (hlane.trans (lumaNat_gray hc (by simp)))
  · rintro rfl
    exact BitVec.eq_of_toNat_eq (hlane.trans (lumaNat_white hc))
  · exact hlane.trans (lumaNat_gray hc (hsum ▸ Nat.le_add_right _ _))

end Sys2Proof.Machine
end

/-! ## `PACK` (R151 to R155) -/

section
namespace Sys2Proof.Machine

/-- `satu8` saturates and never wraps (R152). -/
theorem satu8_toNat (x : Int) : ((satu8 x).toNat : Int) = min (max x 0) 255 := by
  unfold satu8
  split
  next hneg =>
    rw [max_eq_right hneg.le]
    rfl
  next hneg =>
    split
    next hbig =>
      rw [max_eq_left (by omega), min_eq_right hbig.le]
      rfl
    next hbig =>
      rw [max_eq_left (by omega), min_eq_left (by omega), BitVec.toNat_ofInt]
      omega

/-- On a lane of at most 255, whose sign bit is then clear, `satu8` keeps the low byte (R152, R155). -/
theorem satu8_toInt_of_toNat_le {x : Lane} (h : x.toNat ≤ 255) : satu8 x.toInt = x.extractLsb' 0 8 := by
  have hint : x.toInt = x.toNat := BitVec.toInt_eq_toNat_of_lt (by omega)
  have hsat := satu8_toNat x.toInt
  apply BitVec.eq_of_toNat_eq
  rw [BitVec.extractLsb'_toNat, Nat.shiftRight_zero, Nat.mod_eq_of_lt (by omega)]
  omega

/-- Byte `4g + i` that `PACK` writes comes from lane `i` of group `g` (R154). -/
theorem byte_of_pack {s t : State} (h : exec .pack s = .next t) (g i : Fin 4) :
    t.ov[4 * g.val + i.val] = satu8 ((s.lv[g.val])[i.val]).toInt := by
  cases h
  have hgroup : (4 * g.val + i.val) / 4 = g.val := by omega
  have hlane : (4 * g.val + i.val) % 4 = i.val := by omega
  simp only [packVec, Vector.getElem_ofFn, hgroup, hlane]

/-- Settles O31: each byte is `satu8` of its lane. -/
theorem packClampsInPixelOrder : Obligations.PackClampsInPixelOrder := by
  intro s
  have hexec : exec .pack s = .next _ := rfl
  refine ⟨_, hexec, fun g i => ?_, rfl⟩
  rw [byte_of_pack hexec, satu8_toNat]

/-- Settles O32: on each lane `satu8` is the identity. -/
theorem packKeepsByteLanes : Obligations.PackKeepsByteLanes := by
  intro s t hle h g i
  rw [byte_of_pack h, satu8_toInt_of_toNat_le (hle g i)]

end Sys2Proof.Machine
end

/-! ## Tile load and tile store (R170 to R177) -/

section
namespace Sys2Proof.Machine

/-- Settles O25: at an aligned address each variant is the common load or store. -/
theorem alignedVariantsAgree : Obligations.AlignedVariantsAgree := fun _ =>
  ⟨execTldA_of_aligned, execTstA_of_aligned⟩

/-- A load of 64 backed bytes completes (R170). -/
theorem tileLoad_of_backed {s : State} (h : ∀ j < 64, s.memok (s.ta + j) = true) :
    tileLoad s = .next { s with sv := tileBytes s.mem s.ta, ph := .lum0 } := by
  rcases tileLoad_cases s with ⟨-, e⟩ | ⟨hunbacked, -⟩
  · exact e
  · exact absurd h hunbacked

/-- Settles O19: the vectors loaded are the bytes of the tile. -/
theorem unalignedLoadReadsTile : Obligations.UnalignedLoadReadsTile := fun s hbacked =>
  ⟨_, tileLoad_of_backed hbacked, fun g k => tileBytes_get s.mem s.ta g.val k.val g.isLt k.isLt, rfl⟩

/-- Settles O20: at an aligned address `TLD.A` is `TLD.U`. -/
theorem alignedLoadReadsTile : Obligations.AlignedLoadReadsTile := by
  intro s ha hbacked
  obtain ⟨hagree, -⟩ := alignedVariantsAgree s
  rw [hagree ha]
  exact unalignedLoadReadsTile s hbacked

/-- A store to 16 backed bytes completes (R174). -/
theorem tileStore_of_backed {s : State} (h : ∀ j < 16, s.memok (s.da + j) = true) :
    tileStore s = .next { s with mem := Memory.writeList s.mem s.da s.ov.toList }.afterStore := by
  rcases tileStore_cases s with ⟨-, e⟩ | ⟨hunbacked, -⟩
  · exact e
  · exact absurd h hunbacked

/-- The tail tile ends the row (R174). -/
theorem afterStore_of_tail {s : State} (h : s.tailf = true) (m : Memory) :
    State.afterStore { s with mem := m } = { s with mem := m, ph := .radv } :=
  if_pos h

/-- A main tile is followed by the next column (R174). -/
theorem afterStore_of_main {s : State} (h : s.tailf = false) (m : Memory) :
    State.afterStore { s with mem := m }
      = { s with mem := m, col := wrap s.cfg (s.col.toNat + 16), ph := .tchk } :=
  if_neg (by simp [h])

/-- Storing a vector puts its byte `k` at `a + k` (R62). -/
theorem read_writeList_vector {m : Memory} (hw : Memory.wf m = true) (a : Nat) (v : ByteVec) (k : Fin 16) :
    Memory.read (Memory.writeList m a v.toList) (a + k.val) = v[k.val] := by
  rw [read_writeList_same hw a v.toList k.val (by simp), Vector.getElem_toList]

/-- No instruction changes a byte outside the 16 at `DA` (R62, R174). -/
theorem read_exec_outside {i : Instr} {s t : State} (h : exec i s = .next t) {a : Nat}
    (ha : a < s.da ∨ s.da + 16 ≤ a) : Memory.read t.mem a = Memory.read s.mem a := by
  rcases exec_mem h with e | e <;> rw [e]
  exact read_writeList_other s.mem s.da s.ov.toList (by simpa using ha)

/-- Settles O21: memory by the rules of a vector's bytes, the rest by what follows the store. -/
theorem unalignedStoreWritesTile : Obligations.UnalignedStoreWritesTile := by
  intro s hc hwf hbacked
  have hexec : exec .tstU s = .next _ := tileStore_of_backed hbacked
  refine ⟨_, hexec, fun k => ?_, fun a ha => read_exec_outside hexec ha, fun htail => ?_, fun hmain => ?_,
    fun hmain hcol => ?_⟩
  · rw [afterStore_mem]
    exact read_writeList_vector hwf s.da s.ov k
  · rw [afterStore_of_tail htail]
  · rw [afterStore_of_main hmain]
  · rw [afterStore_of_main hmain]
    exact wrap_of_lt (aw_le_of_valid hc) hcol

/-- Settles O22: at an aligned address `TST.A` is `TST.U`. -/
theorem alignedStoreWritesTile : Obligations.AlignedStoreWritesTile := by
  intro s hc hwf ha hbacked
  obtain ⟨-, hagree⟩ := alignedVariantsAgree s
  rw [hagree ha]
  exact unalignedStoreWritesTile s hc hwf hbacked

/-! ### Frames -/

/-- The common load writes `SV` and `PH`, or takes the fault entry (R170, R266). -/
theorem tileLoad_frame {s t : State} (h : tileLoad s = .next t) :
    t = { s with sv := t.sv, ph := .lum0 } ∨ t = s.raiseFault t.ecode := by
  rcases tileLoad_cases s with ⟨-, e⟩ | ⟨-, e⟩ <;> cases e.symm.trans h
  exacts [.inl rfl, .inr rfl]

/-- The common store writes memory, `COL` on a main tile and `PH`, or takes the fault entry (R174, R266). -/
theorem tileStore_frame {s t : State} (h : tileStore s = .next t) :
    t = { s with mem := t.mem, col := t.col, ph := t.ph } ∧ (s.tailf = true → t.col = s.col)
      ∨ t = s.raiseFault t.ecode := by
  rcases tileStore_cases s with ⟨-, e⟩ | ⟨-, e⟩ <;> cases e.symm.trans h
  · left
    by_cases htail : s.tailf = true
    · rw [afterStore_of_tail htail]
      exact ⟨rfl, fun _ => rfl⟩
    · rw [afterStore_of_main (Bool.eq_false_of_not_eq_true htail)]
      exact ⟨rfl, fun h => absurd h htail⟩
  · exact .inr rfl

/-- Settles O36: an aligned load is the common load or an `AlignFault`. -/
theorem loadFrame : Obligations.LoadFrame := by
  intro s t i hi h
  have hframe : t = { s with sv := t.sv, ph := .lum0 } ∨ t = s.raiseFault t.ecode := by
    rcases hi with rfl | rfl
    · exact tileLoad_frame h
    · rcases execTldA_cases s with e | e
      · exact tileLoad_frame (e.symm.trans h)
      · cases e.symm.trans h
        exact .inr rfl
  refine ⟨hframe, fun a => ?_⟩
  have hmem : t.mem = s.mem := hframe.elim (congrArg State.mem) (congrArg State.mem)
  rw [hmem]

/-- Settles O37: an aligned store is the common store or an `AlignFault`. -/
theorem storeFrame : Obligations.StoreFrame := by
  intro s t i hi h
  refine ⟨?_, fun a => read_exec_outside h⟩
  rcases hi with rfl | rfl
  · exact tileStore_frame h
  · rcases execTstA_cases s with e | e
    · exact tileStore_frame (e.symm.trans h)
    · cases e.symm.trans h
      exact .inr rfl

end Sys2Proof.Machine
end

/-! ## Whose step it is, and which instruction it runs (R191, R229) -/

section
namespace Sys2Proof.Machine

/-- A step is one of the agent whose turn it is (log 6). -/
theorem step_of_turn {s : State} {a : Agent} {rest : List Agent} (hc : s.cfg.valid = true)
    (hturn : nextTurn s s.turns = some (a, rest)) : step s = agentStep a { s with turns := rest } := by
  rw [step, if_pos hc, hturn]

theorem sequencerStep_of_fetched {s : State} {i : Instr} (h : s.fetched = some i) :
    sequencerStep s = exec i s := by
  rw [sequencerStep_eq, h]

/-- The sequencer has an instruction in the running phases and in no other (R191). -/
theorem fetched_isSome (s : State) : s.fetched.isSome = s.busy := by
  unfold State.fetched State.busy Phase.running
  cases s.ph <;> rfl

theorem busy_of_fetched {s : State} {i : Instr} (h : s.fetched = some i) : s.busy = true := by
  rw [← fetched_isSome, h, Option.isSome_some]

/-- A busy sequencer whose turn is listed next runs the instruction of its phase. -/
theorem step_of_listed {s : State} {i : Instr} {rest : List Agent} (hc : s.cfg.valid = true)
    (hturns : s.turns = .sequencer :: rest) (hi : s.fetched = some i) :
    step s = exec i { s with turns := rest } := by
  have hturn : nextTurn s s.turns = some (.sequencer, rest) := by
    rw [hturns]
    exact if_pos (busy_of_fetched hi)
  exact (step_of_turn hc hturn).trans (sequencerStep_of_fetched hi)

/-- With no turn listed a busy sequencer goes first (log 6). -/
theorem step_of_fetched {s : State} {i : Instr} (hc : s.cfg.valid = true) (hturns : s.turns = [])
    (hi : s.fetched = some i) : step s = exec i s := by
  have hturn : nextTurn s s.turns = some (.sequencer, s.turns) := by
    rw [hturns]
    exact if_pos (busy_of_fetched hi)
  exact (step_of_turn hc hturn).trans (sequencerStep_of_fetched hi)

/-- Settles O4: the turn gives the agent, and the agent's word the instruction. -/
theorem stepRunsDecodedInstruction : Obligations.StepRunsDecodedInstruction := by
  intro s i rest hc
  constructor
  · intro w hturn hfetch hdecode
    have hfetch' : { s with turns := rest }.fetchWord = some w := hfetch
    rw [step_of_turn hc hturn, agentStep, sequencerStep, hfetch']
    simp only [hdecode]
  · intro v ops hturn henv hv hdecode
    rw [step_of_turn hc hturn]
    simp only [agentStep, envStep, henv, envOp, if_pos hv, writeReg, writeCommand, hdecode, if_true]

/-- Settles O8: no agent has a turn (log 14). -/
theorem nothingPendingNoStep : Obligations.NothingPendingNoStep := by
  intro s hc hph henv
  have hidle : s.busy = false := hph.elim busy_of_idle busy_of_fault
  rw [step, if_pos hc, (nextTurn_none_iff s s.turns).2 ⟨hidle, henv⟩]

/-! ### Placed words (log 16) -/

theorem eq_instr_of_instr? {d : Decoded} {i : Instr} (h : d.instr? = some i) : d = .instr i := by
  cases d with
  | instr j => exact congrArg Decoded.instr (Option.some.inj h)
  | illegal | reserved => cases h

/-- The one word of the opcode table that is read as `CONVERT` is 1 (R103): no micro-operation word is (log 17). -/
theorem eq_one_of_decodeTableWord {nbits w : Nat} (h : decodeTableWord nbits w = some .convert) :
    BitVec.ofNat 64 w = 1 := by
  unfold decodeTableWord at h
  split at h
  next i hmicro =>
    cases h
    split_ifs at hmicro
    have henc := encode_of_decode (w := .micro (BitVec.ofNat 8 w)) (eq_instr_of_instr? hmicro)
    cases henc
  next =>
    split_ifs at h
    have henc := encode_of_decode (w := .command (BitVec.ofNat 64 w)) (eq_instr_of_instr? h)
    exact (CodeWord.command.inj henc).symm

/-- `WR CMD, 1` as the host's next operation, on its turn, is `CONVERT` (R103, R221). -/
theorem step_of_placed_convert {s : State} (hc : s.cfg.valid = true) :
    step { s with env := .wr 0 1 :: s.env, turns := .host :: s.turns } = exec .convert s := by
  have hfit : (1 : Word).toNat < 2 ^ s.cfg.aw := Nat.one_lt_two_pow (by have := le_aw_of_valid hc; omega)
  obtain ⟨-, hhost⟩ := stepRunsDecodedInstruction
    { s with env := .wr 0 1 :: s.env, turns := .host :: s.turns } .convert s.turns hc
  exact hhost 1 s.env rfl rfl hfit decode_convert

/-- Settles O5: a command word is the host's next operation, and a micro-operation's word is fetched in the phase
that is set. -/
theorem placedWordRunsNext : Obligations.PlacedWordRunsNext := by
  intro s nbits w i hc hword
  unfold State.withFetchWord
  rw [hword]
  cases i with
  | convert =>
    rw [eq_one_of_decodeTableWord hword]
    exact step_of_placed_convert hc
  | rchk | tchk | pack | radv => exact step_of_listed hc rfl rfl
  | tldU | tstU =>
    refine step_of_listed hc rfl ?_
    simp [State.fetched, State.useAligned, Bool.and_assoc]
  | tldA | tstA => exact step_of_listed hc rfl rfl
  | luma g =>
    refine step_of_listed hc rfl ?_
    fin_cases g <;> rfl

end Sys2Proof.Machine
end

/-! ## The fetch function, phase by phase (R191) -/

section
namespace Sys2Proof.Machine

theorem useAligned_iff (s : State) : s.useAligned = true ↔ s.path = true ∧ s.tailf = false := by
  simp [State.useAligned]

/-- Settles O6: the word of each phase, and the instruction it decodes to. -/
theorem fetchTable : Obligations.FetchTable := by
  constructor
  · intro s t hph hpath htailf
    rw [State.fetchWord, State.fetchWord, State.useAligned, State.useAligned, hph, hpath, htailf]
  · intro s hc hturns
    have hstep {i : Instr} : s.fetched = some i → step s = exec i s := step_of_fetched hc hturns
    refine ⟨?_, ?_, ?_, ?_, ?_, ?_, ?_, ?_, ?_, ?_, ?_, ?_⟩ <;> intro hph
    case refine_3 | refine_10 =>
      intro haligned
      have hu := (useAligned_iff s).2 haligned
      exact ⟨by simp [State.fetchWord, hph, hu], hstep (by simp [State.fetched, hph, hu])⟩
    case refine_4 | refine_11 =>
      intro haligned
      have hu := mt (useAligned_iff s).1 haligned
      exact ⟨by simp [State.fetchWord, hph, hu], hstep (by simp [State.fetched, hph, hu])⟩
    all_goals exact ⟨by rw [State.fetchWord, hph], hstep (by rw [State.fetched, hph])⟩

/-- The words of `TLD.A` and `TST.A` are fetched in `LD` and `ST`, where the aligned variants are for use (R191). -/
theorem useAligned_of_fetchWord {s : State} (h : s.fetchWord = some 0x38 ∨ s.fetchWord = some 0x68) :
    s.ph.inTile = true ∧ s.useAligned = true := by
  unfold State.fetchWord at h
  revert h
  cases s.ph <;> cases s.useAligned <;> decide

/-- Settles O54: the invariant aligns both addresses of a main tile on the aligned path. -/
theorem alignedVariantsNeverFault : Obligations.AlignedVariantsNeverFault := by
  intro s h
  constructor <;> intro hword
  · obtain ⟨htile, hu⟩ := useAligned_of_fetchWord (.inl hword)
    exact of_decide_eq_true (aligned_of_useAligned h htile hu).1
  · obtain ⟨htile, hu⟩ := useAligned_of_fetchWord (.inr hword)
    exact of_decide_eq_true (aligned_of_useAligned h htile hu).2

end Sys2Proof.Machine
end

/-! ## What an instruction leaves to the surroundings (R20, R209) -/

section
namespace Sys2Proof.Machine

/-- The fields of a state that are not the block's: what is backed, what is pending, whose turn it is, and the host's
last reply (logs 3, 6 and 7). -/
structure State.SameSurroundings (s t : State) : Prop where
  unbacked : t.unbacked = s.unbacked
  env : t.env = s.env
  turns : t.turns = s.turns
  reply : t.reply = s.reply

theorem sameSurroundings_raiseFault (s : State) (code : BitVec 4) : s.SameSurroundings (s.raiseFault code) := by
  constructor <;> rfl

/-- A load or store, in either variant, writes what O36 and O37 list. -/
theorem tileAccess_sameSurroundings {i : Instr} {s t : State}
    (hi : (i = .tldU ∨ i = .tldA) ∨ i = .tstU ∨ i = .tstA) (h : exec i s = .next t) : s.SameSurroundings t := by
  rcases hi with hload | hstore
  · obtain ⟨e | e, -⟩ := loadFrame s t i hload h <;> rw [e] <;> constructor <;> rfl
  · obtain ⟨⟨e, -⟩ | e, -⟩ := storeFrame s t i hstore h <;> rw [e] <;> constructor <;> rfl

/-- No instruction touches what is not the block's. -/
theorem exec_sameSurroundings {i : Instr} {s t : State} (h : exec i s = .next t) : s.SameSurroundings t := by
  cases i with
  | convert | rchk | tchk =>
    simp only [exec, execConvert, convertIdle, execRchk, execTchk] at h
    split_ifs at h <;> cases h <;> constructor <;> rfl
  | luma g | pack | radv =>
    cases h
    constructor <;> rfl
  | tldU | tldA | tstU | tstA => exact tileAccess_sameSurroundings (by simp) h

/-- Settles O7: every instruction answers a next state. -/
theorem runningPhasesAlwaysStep : Obligations.RunningPhasesAlwaysStep := by
  intro s hc hturns hb
  obtain ⟨i, hi⟩ := Option.isSome_iff_exists.1 ((fetched_isSome s).trans hb)
  obtain ⟨t, ht⟩ := exec_next i s
  exact ⟨t, (step_of_fetched hc hturns hi).trans ht, (exec_sameSurroundings ht).env⟩

end Sys2Proof.Machine
end

/-! ## The control micro-operations (R194 to R196) -/

section
namespace Sys2Proof.Machine

/-- Settles O16: the two arms of `RCHK`. -/
theorem rchkStartsRowOrEndsCall : Obligations.RchkStartsRowOrEndsCall := fun _ =>
  ⟨fun hlast => if_pos hlast, fun hmore => if_neg hmore⟩

/-- `awd(w)` as the largest multiple of 16 not above `w` (R192). -/
theorem awd_eq (w : Nat) : awd w = 16 * (w / 16) := by
  unfold awd
  omega

/-- `WIDTH - 16` where `WIDTH` is at least 16: neither the `AW`-bit nor the 64-bit difference wraps (R195). -/
theorem wrap_width_sub {s : State} (hc : s.cfg.valid = true) (hfit : s.width.toNat < 2 ^ s.cfg.aw)
    (hge : 16 ≤ s.width.toNat) : wrap s.cfg (s.width.toNat + 2 ^ s.cfg.aw - 16) = s.width - 16 := by
  have hle : (16 : Word) ≤ s.width := hge
  apply BitVec.eq_of_toNat_eq
  rw [wrap_toNat (aw_le_of_valid hc), Nat.sub_add_comm hge, Nat.add_mod_right, Nat.mod_eq_of_lt (by omega),
    BitVec.toNat_sub_of_le hle]
  rfl

/-- Settles O17: the three arms of `TCHK`. -/
theorem tchkChoosesTile : Obligations.TchkChoosesTile := by
  intro s hc hfit
  rw [← awd_eq]
  refine ⟨fun hmain => if_pos hmain, fun hend hpart hge => ?_, fun hend hwhole => ?_⟩
  · rw [exec, execTchk, if_neg (Nat.not_lt.2 hend), if_pos hpart, wrap_width_sub hc hfit hge]
  · rw [exec, execTchk, if_neg (Nat.not_lt.2 hend), if_neg (not_not_intro hwhole)]

/-- Settles O18: the three sums of `RADV`, modulo `2^AW`. -/
theorem radvAdvancesRow : Obligations.RadvAdvancesRow := by
  intro s hc
  have haw := aw_le_of_valid hc
  exact ⟨_, rfl, wrap_toNat haw _, wrap_toNat haw _, wrap_of_lt haw, rfl⟩

/-- Settles O34: each arm of `RCHK`, `TCHK` and `RADV` writes some of the seven fields. -/
theorem controlFrame : Obligations.ControlFrame := by
  intro s t i hi h
  rcases hi with rfl | rfl | rfl
  · unfold exec execRchk at h
    split_ifs at h <;> cases h <;> simp
  · unfold exec execTchk at h
    split_ifs at h <;> cases h <;> simp
  · cases h
    simp

end Sys2Proof.Machine
end

/-! ## Two runs side by side: the two paths (R206), and other data (R204) -/

section
namespace Sys2Proof.Machine

/-- A load with a byte that is not backed raises `BusFault` (R265). -/
theorem tileLoad_of_not_backed {s : State} (h : ¬ ∀ j < 64, s.memok (s.ta + j) = true) :
    tileLoad s = .next (s.raiseFault eBus) := by
  rcases tileLoad_cases s with ⟨hbacked, -⟩ | ⟨-, e⟩
  · exact absurd hbacked h
  · exact e

/-- A store with a byte that is not backed raises `BusFault` (R265). -/
theorem tileStore_of_not_backed {s : State} (h : ¬ ∀ j < 16, s.memok (s.da + j) = true) :
    tileStore s = .next (s.raiseFault eBus) := by
  rcases tileStore_cases s with ⟨hbacked, -⟩ | ⟨-, e⟩
  · exact absurd hbacked h
  · exact e

/-- Two runs that take the same branch are related if they are in each branch. -/
theorem outcomesRelated_ite {R : State → State → Prop} {c : Prop} [Decidable c]
    {x y x' y' : Host.Outcome State Fault Refusal} (hpos : c → outcomesRelated R x x')
    (hneg : ¬ c → outcomesRelated R y y') :
    outcomesRelated R (if c then x else y) (if c then x' else y') := by
  split_ifs with h
  exacts [hpos h, hneg h]

/-- Two loads at one address of one backing are related if the loaded states are, and the faulted ones. -/
theorem tileLoad_related {R : State → State → Prop} {s t : State} (hta : t.ta = s.ta) (hok : t.memok = s.memok)
    (hload : R { s with sv := tileBytes s.mem s.ta, ph := .lum0 } { t with sv := tileBytes t.mem t.ta, ph := .lum0 })
    (hfault : R (s.raiseFault eBus) (t.raiseFault eBus)) : outcomesRelated R (tileLoad s) (tileLoad t) := by
  by_cases hb : ∀ j < 64, s.memok (s.ta + j) = true
  · rw [tileLoad_of_backed hb, tileLoad_of_backed (by rwa [hta, hok])]
    exact hload
  · rw [tileLoad_of_not_backed hb, tileLoad_of_not_backed (by rwa [hta, hok])]
    exact hfault

/-- Two stores to one address of one backing are related if the stored states are, and the faulted ones. -/
theorem tileStore_related {R : State → State → Prop} {s t : State} (hda : t.da = s.da) (hok : t.memok = s.memok)
    (hstore : R { s with mem := Memory.writeList s.mem s.da s.ov.toList }.afterStore
      { t with mem := Memory.writeList t.mem t.da t.ov.toList }.afterStore)
    (hfault : R (s.raiseFault eBus) (t.raiseFault eBus)) : outcomesRelated R (tileStore s) (tileStore t) := by
  by_cases hb : ∀ j < 16, s.memok (s.da + j) = true
  · rw [tileStore_of_backed hb, tileStore_of_backed (by rwa [hda, hok])]
    exact hstore
  · rw [tileStore_of_not_backed hb, tileStore_of_not_backed (by rwa [hda, hok])]
    exact hfault

/-- The sequencer fetches no `CONVERT` (R101, R191). -/
theorem ne_convert_of_fetched {s : State} {i : Instr} (h : s.fetched = some i) : i ≠ .convert := by
  rintro rfl
  unfold State.fetched at h
  revert h
  cases s.ph <;> cases s.useAligned <;> decide

/-! ### The two paths -/

/-- `t` is `s` but for its `PATH`, which is `p`. -/
def State.WithPath (s : State) (p : Bool) (t : State) : Prop := t = { s with path := p }

theorem tileLoad_withPath (p : Bool) (s : State) :
    outcomesRelated (·.WithPath p) (tileLoad s) (tileLoad { s with path := p }) :=
  tileLoad_related rfl rfl rfl rfl

theorem afterStore_withPath (s : State) (p : Bool) : s.afterStore.WithPath p { s with path := p }.afterStore := by
  unfold State.afterStore
  split <;> rfl

theorem tileStore_withPath (p : Bool) (s : State) :
    outcomesRelated (·.WithPath p) (tileStore s) (tileStore { s with path := p }) :=
  tileStore_related rfl rfl (afterStore_withPath { s with mem := Memory.writeList s.mem s.da s.ov.toList } p) rfl

/-- No micro-operation reads or writes `PATH`: the fetch function alone reads it (R191), `CONVERT` alone writes it
(R225). -/
theorem exec_withPath {i : Instr} (hi : i ≠ .convert) (p : Bool) (s : State) :
    outcomesRelated (·.WithPath p) (exec i s) (exec i { s with path := p }) := by
  cases i with
  | convert => exact absurd rfl hi
  | rchk => exact outcomesRelated_ite (c := s.row = s.height) (fun _ => rfl) fun _ => rfl
  | tchk =>
    exact outcomesRelated_ite (c := s.col.toNat < awd s.width.toNat) (fun _ => rfl) fun _ =>
      outcomesRelated_ite (c := awd s.width.toNat ≠ s.width.toNat) (fun _ => rfl) fun _ => rfl
  | luma g | pack | radv => rfl
  | tldU => exact tileLoad_withPath p s
  | tstU => exact tileStore_withPath p s
  | tldA => exact outcomesRelated_ite (c := aligned s.ta = true) (fun _ => tileLoad_withPath p s) fun _ => rfl
  | tstA => exact outcomesRelated_ite (c := aligned s.da = true) (fun _ => tileStore_withPath p s) fun _ => rfl

end Sys2Proof.Machine

namespace Sys2Proof

/-- The unaligned variant of a load or store, any other instruction itself (R173, R177). -/
def Instr.unaligned : Instr → Instr
  | .tldA => .tldU
  | .tstA => .tstU
  | i => i

end Sys2Proof

namespace Sys2Proof.Machine

/-- With `PATH` 0 each phase issues the unaligned variant of what it issued (R191). -/
theorem fetched_unalignedPath (s : State) :
    { s with path := false }.fetched = s.fetched.map Instr.unaligned := by
  unfold State.fetched
  cases s.ph with
  | ld | st => cases s.useAligned <;> simp [State.useAligned] <;> rfl
  | _ => rfl

/-- Where an aligned variant is issued in a run, it does the same as the unaligned one (R203). -/
theorem exec_unaligned_of_fetched {s : State} {i : Instr} (h : s.Inv) (hi : s.fetched = some i) :
    exec i.unaligned s = exec i s := by
  have haligned (ht : s.ph.inTile = true) (hu : s.useAligned = true) : s.ta % 16 = 0 ∧ s.da % 16 = 0 :=
    (aligned_of_useAligned h ht hu).imp of_decide_eq_true of_decide_eq_true
  unfold State.fetched at hi
  cases hph : s.ph <;> rw [hph] at hi <;> cases hi
  case ld =>
    split_ifs with hu
    · exact (execTldA_of_aligned (haligned (by rw [hph, Phase.inTile]) hu).1).symm
    · rfl
  case st =>
    split_ifs with hu
    · exact (execTstA_of_aligned (haligned (by rw [hph, Phase.inTile]) hu).2).symm
    · rfl
  all_goals rfl

/-- Settles O59: the unaligned path issues the unaligned variants, which do the same. -/
theorem pathsAreEquivalent : Obligations.PathsAreEquivalent := by
  intro s t h hb _ hturns hstep
  have hc : s.cfg.valid = true := h.1
  obtain ⟨i, hi⟩ := Option.isSome_iff_exists.1 ((fetched_isSome s).trans hb)
  have hi' : { s with path := false }.fetched = some i.unaligned := by
    rw [fetched_unalignedPath, hi, Option.map_some]
  have hexec : exec i.unaligned s = .next t := by
    rw [exec_unaligned_of_fetched h hi, ← step_of_fetched hc hturns hi, hstep]
  obtain ⟨u, hu⟩ := exec_next i.unaligned { s with path := false }
  have hrelated := exec_withPath (ne_convert_of_fetched hi') false s
  rw [hexec, hu] at hrelated
  have hut : u = { t with path := false } := hrelated
  rw [step_of_fetched (s := { s with path := false }) hc hturns hi', hu, hut]

/-! ### Control and data -/

/-- Equal control views (R204). -/
def State.SameControl (s t : State) : Prop := s.controlView = t.controlView

theorem tileLoad_controlView (s : State) :
    outcomesRelated State.SameControl (tileLoad s) (tileLoad s.controlView) :=
  tileLoad_related rfl rfl rfl rfl

theorem controlView_afterStore (s : State) : s.afterStore.controlView = s.controlView.afterStore := by
  rw [State.afterStore, State.afterStore, apply_ite State.controlView]
  rfl

theorem tileStore_controlView (s : State) :
    outcomesRelated State.SameControl (tileStore s) (tileStore s.controlView) := by
  refine tileStore_related rfl rfl ?_ rfl
  rw [State.SameControl, controlView_afterStore, controlView_afterStore]
  rfl

/-- What a micro-operation does to the control view is determined by the control view (R204). -/
theorem exec_controlView {i : Instr} (hi : i ≠ .convert) (s : State) :
    outcomesRelated State.SameControl (exec i s) (exec i s.controlView) := by
  cases i with
  | convert => exact absurd rfl hi
  | rchk => exact outcomesRelated_ite (c := s.row = s.height) (fun _ => rfl) fun _ => rfl
  | tchk =>
    exact outcomesRelated_ite (c := s.col.toNat < awd s.width.toNat) (fun _ => rfl) fun _ =>
      outcomesRelated_ite (c := awd s.width.toNat ≠ s.width.toNat) (fun _ => rfl) fun _ => rfl
  | luma g | pack | radv => rfl
  | tldU => exact tileLoad_controlView s
  | tstU => exact tileStore_controlView s
  | tldA => exact outcomesRelated_ite (c := aligned s.ta = true) (fun _ => tileLoad_controlView s) fun _ => rfl
  | tstA => exact outcomesRelated_ite (c := aligned s.da = true) (fun _ => tileStore_controlView s) fun _ => rfl

/-- Settles O60: both runs do to their control views what the shared control view determines. -/
theorem controlIndependentOfData : Obligations.ControlIndependentOfData := by
  intro s s' hc hc' hview hb hturns
  have hfetched : s.fetched = s'.fetched := (congrArg State.fetched hview :)
  have hturns' : s'.turns = [] := (congrArg State.turns hview).symm.trans hturns
  obtain ⟨i, hi⟩ := Option.isSome_iff_exists.1 ((fetched_isSome s).trans hb)
  obtain ⟨t, ht⟩ := exec_next i s
  obtain ⟨t', ht'⟩ := exec_next i s'
  obtain ⟨u, hu⟩ := exec_next i s.controlView
  refine ⟨(congrArg State.fetchWord hview :), (congrArg State.ta hview :), (congrArg State.da hview :), ?_⟩
  rw [step_of_fetched hc hturns hi, step_of_fetched hc' hturns' (hfetched ▸ hi), ht, ht']
  have hs := exec_controlView (ne_convert_of_fetched hi) s
  have hs' := exec_controlView (ne_convert_of_fetched hi) s'
  rw [ht, hu] at hs
  rw [ht', ← hview, hu] at hs'
  exact hs.trans hs'.symm

end Sys2Proof.Machine
end

/-! ## Runs of several steps -/

section
namespace Sys2Proof.Machine

theorem run_succ {s t : State} {n : Nat} (h : step s = .next t) :
    Host.Core.run core (n + 1) s = Host.Core.run core n t := by
  have hstep : core.step s = .next t := h
  simp only [Host.Core.run, hstep]

theorem run_one {s t : State} (h : step s = .next t) : Host.Core.run core 1 s = .next t :=
  run_succ h

theorem step_of_run_succ {s u : State} {n : Nat} (h : Host.Core.run core (n + 1) s = .next u) :
    ∃ t, step s = .next t ∧ Host.Core.run core n t = .next u := by
  cases hstep : step s with
  | next t => exact ⟨t, rfl, (run_succ hstep).symm.trans h⟩
  | fault r | refused r =>
    have hstep' : core.step s = _ := hstep
    simp [Host.Core.run, hstep'] at h

/-- A run goes on where a run before it ended. -/
theorem run_append {s t u : State} {m n : Nat} (h : Host.Core.run core m s = .next t)
    (h' : Host.Core.run core n t = .next u) : Host.Core.run core (m + n) s = .next u := by
  induction m generalizing s with
  | zero =>
    cases h
    rwa [Nat.zero_add]
  | succ m ih =>
    obtain ⟨v, hstep, hrun⟩ := step_of_run_succ h
    rw [Nat.add_right_comm, run_succ hstep]
    exact ih hrun

/-- The invariant holds all along a run. -/
theorem inv_run {s t : State} {n : Nat} (h : s.Inv) (hrun : Host.Core.run core n s = .next t) : t.Inv := by
  induction n generalizing s with
  | zero =>
    cases hrun
    exact h
  | succ n ih =>
    obtain ⟨v, hstep, hrun'⟩ := step_of_run_succ hrun
    exact ih (invKeptByEveryStep s v h hstep) hrun'

end Sys2Proof.Machine
end

/-! ## One tile (R193) -/

section
namespace Sys2Proof.Machine

/-- In `LD` the sequencer loads, in the aligned variant only where the address is aligned. -/
theorem step_load {s : State} (hc : s.cfg.valid = true) (hturns : s.turns = []) (hph : s.ph = .ld)
    (ha : s.useAligned = true → s.ta % 16 = 0) : step s = tileLoad s := by
  by_cases hu : s.useAligned = true
  · have hi : s.fetched = some .tldA := by simp [State.fetched, hph, hu]
    exact (step_of_fetched hc hturns hi).trans (execTldA_of_aligned (ha hu))
  · have hi : s.fetched = some .tldU := by simp [State.fetched, hph, hu]
    exact step_of_fetched hc hturns hi

/-- In `ST` the sequencer stores, in the aligned variant only where the address is aligned. -/
theorem step_store {s : State} (hc : s.cfg.valid = true) (hturns : s.turns = []) (hph : s.ph = .st)
    (ha : s.useAligned = true → s.da % 16 = 0) : step s = tileStore s := by
  by_cases hu : s.useAligned = true
  · have hi : s.fetched = some .tstA := by simp [State.fetched, hph, hu]
    exact (step_of_fetched hc hturns hi).trans (execTstA_of_aligned (ha hu))
  · have hi : s.fetched = some .tstU := by simp [State.fetched, hph, hu]
    exact step_of_fetched hc hturns hi

/-- The luma vectors of the tile at `TA`. -/
def State.tileLuma (s : State) : Vector LaneVec 4 :=
  (tileBytes s.mem s.ta).map (lumaVec s.cfg)

/-- The sixteen gray bytes of the tile at `TA`. -/
def State.tileGray (s : State) : ByteVec := packVec s.tileLuma

/-- The state in which the gray bytes of the tile are packed and not yet stored. -/
def State.tilePacked (s : State) : State :=
  { s with sv := tileBytes s.mem s.ta, lv := s.tileLuma, ov := s.tileGray, ph := .st }

/-- The state after the tile. -/
def State.tileStored (s : State) : State :=
  { s.tilePacked with mem := Memory.writeList s.mem s.da s.tileGray.toList }.afterStore

/-- The four `LUMA` write all four luma vectors. -/
theorem luma_groups (c : Config) (v : Vector ByteVec 4) (lv : Vector LaneVec 4) :
    (((lv.set 0 (lumaVec c v[0])).set 1 (lumaVec c v[1])).set 2 (lumaVec c v[2])).set 3 (lumaVec c v[3])
      = v.map (lumaVec c) := by
  ext g hg
  interval_cases g <;> simp

/-- With no turn listed a run goes on from where the fetched instruction leads. -/
theorem run_fetched {s t : State} {i : Instr} (hc : s.cfg.valid = true) (hturns : s.turns = [])
    (hi : s.fetched = some i) (hexec : exec i s = .next t) {n : Nat} :
    Host.Core.run core (n + 1) s = Host.Core.run core n t :=
  run_succ ((step_of_fetched hc hturns hi).trans hexec)

/-- From `LUM0` five steps compute and pack (R193). -/
theorem run_compute {s : State} (hc : s.cfg.valid = true) (hturns : s.turns = []) (hph : s.ph = .lum0) :
    Host.Core.run core 5 s = .next { s with
      lv := s.sv.map (lumaVec s.cfg), ov := packVec (s.sv.map (lumaVec s.cfg)), ph := .st } := by
  have hi : s.fetched = some (.luma 0) := by rw [State.fetched, hph]
  rw [← luma_groups s.cfg s.sv s.lv]
  calc Host.Core.run core 5 s
    _ = Host.Core.run core 4 _ := run_fetched hc hturns hi rfl
    _ = Host.Core.run core 3 _ := run_fetched (s := { s with lv := _, ph := .lum1 }) hc hturns rfl rfl
    _ = Host.Core.run core 2 _ := run_fetched (s := { s with lv := _, ph := .lum2 }) hc hturns rfl rfl
    _ = Host.Core.run core 1 _ := run_fetched (s := { s with lv := _, ph := .lum3 }) hc hturns rfl rfl
    _ = Host.Core.run core 0 _ := run_fetched (s := { s with lv := _, ph := .pk }) hc hturns rfl rfl

/-- The seven steps of a tile whose accesses are backed (R193). -/
theorem run_tile {s : State} (hc : s.cfg.valid = true) (hturns : s.turns = []) (hph : s.ph = .ld)
    (ha : s.useAligned = true → s.ta % 16 = 0 ∧ s.da % 16 = 0)
    (hsrc : ∀ j < 64, s.memok (s.ta + j) = true) (hdst : ∀ j < 16, s.memok (s.da + j) = true) :
    Host.Core.run core 7 s = .next s.tileStored := by
  have hload := (step_load hc hturns hph fun hu => (ha hu).1).trans (tileLoad_of_backed hsrc)
  have hstore : step s.tilePacked = .next s.tileStored :=
    (step_store (s := s.tilePacked) hc hturns rfl fun hu => (ha hu).2).trans (tileStore_of_backed hdst)
  have hcompute : Host.Core.run core 5 { s with sv := tileBytes s.mem s.ta, ph := .lum0 } = .next s.tilePacked :=
    run_compute hc hturns rfl
  rw [run_succ hload]
  exact run_append hcompute (run_one hstore)

/-- Byte `k` packed from lanes of at most 255 is lane `k % 4` of vector `k / 4` (R154, R155). -/
theorem packVec_toNat {lv : Vector LaneVec 4} {k : Nat} (hk : k < 16)
    (hle : ((lv[k / 4])[k % 4]).toNat ≤ 255) : ((packVec lv)[k]).toNat = ((lv[k / 4])[k % 4]).toNat := by
  rw [packVec, Vector.getElem_ofFn, satu8_toInt_of_toNat_le hle, BitVec.extractLsb'_toNat, Nat.shiftRight_zero,
    Nat.mod_eq_of_lt (by omega)]

/-- Byte `k` of a tile's gray vector is `luma` of its pixel `k` (R128, R155). -/
theorem tileGray_toNat {s : State} (hc : s.cfg.valid = true) {k : Nat} (hk : k < 16) :
    (s.tileGray[k]).toNat = lumaNat s.cfg (Memory.read s.mem (s.ta + 4 * k)).toNat
      (Memory.read s.mem (s.ta + 4 * k + 1)).toNat (Memory.read s.mem (s.ta + 4 * k + 2)).toNat := by
  have hlane : ((s.tileLuma[k / 4])[k % 4]).toNat = lumaNat s.cfg (Memory.read s.mem (s.ta + 4 * k)).toNat
      (Memory.read s.mem (s.ta + 4 * k + 1)).toNat (Memory.read s.mem (s.ta + 4 * k + 2)).toNat := by
    have haddr : s.ta + 16 * (k / 4) + 4 * (k % 4) = s.ta + 4 * k := by omega
    simp only [State.tileLuma, Vector.getElem_map, lumaVec, Vector.getElem_ofFn, lumaLane_toNat hc, chanR, chanG,
      chanB, tileBytes, ← Nat.add_assoc, haddr]
  rw [State.tileGray, packVec_toNat hk (hlane ▸ lumaNat_le hc _ _ _), hlane]

@[simp] theorem tileStored_mem (s : State) :
    s.tileStored.mem = Memory.writeList s.mem s.da s.tileGray.toList := by
  rw [State.tileStored, afterStore_mem]

/-- The tile's destination bytes are the gray values of its pixels. -/
theorem read_tileStored {s : State} (hc : s.cfg.valid = true) (hwf : Memory.wf s.mem = true) {k : Nat}
    (hk : k < 16) : (Memory.read s.tileStored.mem (s.da + k)).toNat
      = lumaNat s.cfg (Memory.read s.mem (s.ta + 4 * k)).toNat (Memory.read s.mem (s.ta + 4 * k + 1)).toNat
          (Memory.read s.mem (s.ta + 4 * k + 2)).toNat := by
  rw [tileStored_mem, read_writeList_vector hwf s.da s.tileGray ⟨k, hk⟩]
  exact tileGray_toNat hc hk

/-- No byte outside the tile's destination changes. -/
theorem read_tileStored_outside (s : State) {a : Nat} (ha : a < s.da ∨ s.da + 16 ≤ a) :
    Memory.read s.tileStored.mem a = Memory.read s.mem a := by
  rw [tileStored_mem]
  exact read_writeList_other s.mem s.da s.tileGray.toList (by simpa using ha)

theorem tileStored_of_tail {s : State} (h : s.tailf = true) : s.tileStored =
    { s.tilePacked with mem := Memory.writeList s.mem s.da s.tileGray.toList, ph := .radv } :=
  afterStore_of_tail (s := s.tilePacked) h _

theorem tileStored_of_main {s : State} (h : s.tailf = false) : s.tileStored =
    { s.tilePacked with
      mem := Memory.writeList s.mem s.da s.tileGray.toList, col := wrap s.cfg (s.col.toNat + 16), ph := .tchk } :=
  afterStore_of_main (s := s.tilePacked) h _

/-- A tile writes the vector registers, memory, `COL` and `PH`. -/
theorem tileStored_frame (s : State) : ∃ m c, s.tileStored =
    { s.tilePacked with mem := m, col := c, ph := if s.tailf = true then .radv else .tchk } := by
  by_cases htail : s.tailf = true
  · rw [if_pos htail]
    exact ⟨_, _, tileStored_of_tail htail⟩
  · rw [if_neg htail]
    exact ⟨_, _, tileStored_of_main (Bool.eq_false_of_not_eq_true htail)⟩

theorem tileStored_ph (s : State) : s.tileStored.ph = if s.tailf = true then .radv else .tchk := by
  obtain ⟨m, c, e⟩ := tileStored_frame s
  rw [e]

@[simp] theorem tileStored_row (s : State) : s.tileStored.row = s.row := by
  obtain ⟨m, c, e⟩ := tileStored_frame s
  rw [e, State.tilePacked]

theorem tileStored_sameInputs (s : State) : s.SameInputs s.tileStored := by
  obtain ⟨m, c, e⟩ := tileStored_frame s
  rw [e]
  constructor <;> rfl

theorem tileStored_sameSurroundings (s : State) : s.SameSurroundings s.tileStored := by
  obtain ⟨m, c, e⟩ := tileStored_frame s
  rw [e]
  constructor <;> rfl

/-- Settles O33: the tile's seven steps, and what its store leaves in memory. -/
theorem tileStoresGrayValues : Obligations.TileStoresGrayValues := by
  intro s hc hwf hph hturns ha hsrc hdst
  exact ⟨s.tileStored, run_tile hc hturns hph (fun hu => ha ((useAligned_iff s).1 hu)) hsrc hdst,
    fun k hk => read_tileStored hc hwf hk, fun a => read_tileStored_outside s, tileStored_ph s⟩

end Sys2Proof.Machine
end

/-! ## A state within a call, relative to the state the call was started in (R199, R205) -/

section
namespace Sys2Proof.Machine

theorem State.SameInputs.trans {s t u : State} (h : s.SameInputs t) (h' : t.SameInputs u) : s.SameInputs u :=
  ⟨h'.cfg.trans h.cfg, h'.src.trans h.src, h'.srcLen.trans h.srcLen, h'.width.trans h.width,
    h'.height.trans h.height, h'.sstride.trans h.sstride, h'.dst.trans h.dst, h'.dstLen.trans h.dstLen,
    h'.dstride.trans h.dstride⟩

/-- `t` is a state of a run with the descriptor and the backing of `s`, in which no turn is given to the host. -/
structure State.InCall (s t : State) : Prop where
  inv : t.Inv
  inputs : s.SameInputs t
  unbacked : t.unbacked = s.unbacked
  turns : t.turns = []

/-- Memory `m` part way through a call of `s`: the pixels before column `c` of row `r`, row by row, hold their gray
values, and outside the write footprint nothing has changed. -/
structure State.Converted (s : State) (m : Memory) (r c : Nat) : Prop where
  pixels : ∀ r' c', r' < r ∨ r' = r ∧ c' < c → c' < s.width.toNat →
    (Memory.read m (s.destAddr r' c')).toNat = s.grayOf s.mem r' c'
  outside : ∀ a, ¬ s.writes a → Memory.read m a = Memory.read s.mem a

/-- A call of `s` stands in phase `p` of row `r`, the pixels before column `c` converted. -/
structure State.CallAt (s : State) (p : Phase) (r c : Nat) (t : State) : Prop where
  call : s.InCall t
  ph : t.ph = p
  row : t.row.toNat = r
  converted : s.Converted t.mem r c

theorem State.InCall.valid {s t : State} (h : s.InCall t) : t.cfg.valid = true := by
  obtain ⟨hc, -⟩ := h.inv
  exact hc

theorem State.InCall.memok {s t : State} (h : s.InCall t) (a : Nat) : t.memok a = s.memok a := by
  rw [State.memok, h.inputs.cfg, h.unbacked, State.memok]

/-- What `State.Inv` says of a call in a running phase. -/
theorem State.InCall.running {s t : State} (h : s.InCall t) (hb : t.busy = true) :
    t.CallOk ∧ (t.ph ≠ .rchk → t.row.toNat < t.height.toNat) ∧ t.colsOk :=
  (inv_iff_of_busy hb).1 h.inv

/-- A micro-operation of the sequencer stays within the call. -/
theorem State.InCall.next {s t u : State} {i : Instr} (h : s.InCall t) (hi : t.fetched = some i)
    (hexec : exec i t = .next u) : step t = .next u ∧ s.InCall u := by
  have hstep : step t = .next u := (step_of_fetched h.valid h.turns hi).trans hexec
  have hother := exec_sameSurroundings hexec
  exact ⟨hstep, invKeptByEveryStep t u h.inv hstep, h.inputs.trans (exec_sameInputs hexec),
    hother.unbacked.trans h.unbacked, hother.turns.trans h.turns⟩

/-! ### The footprints (R66, R67) -/

/-- An offset within a row of a buffer that has room for the rows. -/
theorem row_offset_lt {row height stride off len : Nat} (hrow : row < height) (hoff : off < stride)
    (hrows : height * stride ≤ len) : row * stride + off < len :=
  calc row * stride + off < (row + 1) * stride := by rw [Nat.add_one_mul]; omega
    _ ≤ height * stride := Nat.mul_le_mul_right stride hrow
    _ ≤ len := hrows

/-- What validation grants of both buffers: a stride has room for a row's pixels, the buffer for the rows, and the
buffers lie apart (R223, checks 3, 4 and 6). -/
theorem buffers_apart {s : State} (h : s.validate = 0) :
    (4 * s.width.toNat ≤ s.sstride.toNat ∧ s.width.toNat ≤ s.dstride.toNat)
      ∧ (s.height.toNat * s.sstride.toNat ≤ s.srcLen.toNat ∧ s.height.toNat * s.dstride.toNat ≤ s.dstLen.toNat)
      ∧ (0 < s.srcLen.toNat → 0 < s.dstLen.toNat → s.src.toNat < s.dst.toNat + s.dstLen.toNat →
        s.src.toNat + s.srcLen.toNat ≤ s.dst.toNat) := by
  obtain ⟨-, -, hstride, hsize, -, hoverlap⟩ := (validate_eq_zero_iff s).1 h
  simpa [State.strideFails, State.sizeFails, State.overlapFails] using And.intro hstride (And.intro hsize hoverlap)

/-- The pixels a call reads lie apart from the bytes it writes (R66, R67). -/
theorem source_not_written {s : State} (h : s.validate = 0) {r j : Nat} (hr : r < s.height.toNat)
    (hj : j < 4 * s.width.toNat) : ¬ s.writes (s.src.toNat + r * s.sstride.toNat + j) := by
  obtain ⟨⟨hsstride, hdstride⟩, ⟨hsrcRows, hdstRows⟩, hapart⟩ := buffers_apart h
  rintro ⟨r', c, hr', hc, e⟩
  have hsrc := row_offset_lt hr (hj.trans_le hsstride) hsrcRows
  have hdst := row_offset_lt hr' (hc.trans_le hdstride) hdstRows
  unfold State.destAddr at e
  omega

theorem destAddr_add (s : State) (r c k : Nat) : s.destAddr r c + k = s.destAddr r (c + k) :=
  Nat.add_assoc _ c k

/-- Rows of the destination do not overlap (R223, check 3). -/
theorem destAddr_lt_of_row_lt {s : State} (h : s.validate = 0) {r' r c' : Nat} (hr : r' < r)
    (hc : c' < s.width.toNat) (c : Nat) : s.destAddr r' c' < s.destAddr r c := by
  obtain ⟨⟨-, hdstride⟩, -⟩ := buffers_apart h
  have hrow := row_offset_lt hr (hc.trans_le hdstride) le_rfl
  unfold State.destAddr
  omega

end Sys2Proof.Machine
end

/-! ## A tile within a call -/

section
namespace Sys2Proof.Machine

/-- Where the current tile's pixels are and where they go, without wrapping (R68, R78, R199). -/
theorem State.InCall.tile_at {s t : State} (h : s.InCall t) (ht : t.ph.inTile = true) :
    t.row.toNat < s.height.toNat ∧ t.col.toNat + 16 ≤ s.width.toNat
      ∧ t.ta = s.src.toNat + t.row.toNat * s.sstride.toNat + 4 * t.col.toNat
      ∧ t.da = s.destAddr t.row.toNat t.col.toNat := by
  obtain ⟨hc, hrow, hcol⟩ := tile_in_row h.inv ht
  obtain ⟨⟨hsstride, hsrcRows, hsrcEnd⟩, hdstride, hdstRows, hdstEnd⟩ := hc.buffers_fit
  obtain ⟨-, -, -, hta⟩ := access_in_buffer (off := 4 * t.col.toNat) (size := 64) hrow (by omega) hsrcRows hsrcEnd
    (by omega)
  obtain ⟨-, -, -, hda⟩ := access_in_buffer (off := t.col.toNat) (size := 16) hrow (by omega) hdstRows hdstEnd
    (by omega)
  rw [← hc.sp, h.inputs.src, h.inputs.sstride] at hta
  rw [← hc.dp, h.inputs.dst, h.inputs.dstride] at hda
  rw [h.inputs.height] at hrow
  rw [h.inputs.width] at hcol
  exact ⟨hrow, hcol, hta, hda⟩

/-- The seven steps of a tile of a call whose footprints are backed. -/
theorem State.InCall.run_tile {s t : State} (h : s.InCall t) (hb : s.footprintsBacked) (hph : t.ph = .ld) :
    Host.Core.run core 7 t = .next t.tileStored ∧ s.InCall t.tileStored := by
  have ht : t.ph.inTile = true := by rw [hph, Phase.inTile]
  obtain ⟨hrow, hcol, hta, hda⟩ := h.tile_at ht
  obtain ⟨hsrc, hdst⟩ := hb
  have hrun : Host.Core.run core 7 t = .next t.tileStored := by
    refine Machine.run_tile h.valid h.turns hph (fun hu => ?_) (fun j hj => ?_) fun j hj => ?_
    · exact (aligned_of_useAligned h.inv ht hu).imp of_decide_eq_true of_decide_eq_true
    · rw [h.memok, hta, Nat.add_assoc]
      exact hsrc _ hrow _ (by omega)
    · rw [h.memok, hda]
      rw [destAddr_add]
      exact hdst _ hrow (t.col.toNat + j) (by omega)
  have hother := tileStored_sameSurroundings t
  exact ⟨hrun, inv_run h.inv hrun, h.inputs.trans (tileStored_sameInputs t), hother.unbacked.trans h.unbacked,
    hother.turns.trans h.turns⟩

/-- A tile reads the pixels as they were before the call (R67, R205). -/
theorem State.Converted.tile_pixel {s t : State} {r c : Nat} (h : s.Converted t.mem r c) (hcall : s.InCall t)
    (hv : s.validate = 0) (hph : t.ph.inTile = true) {k : Nat} (hk : k < 16) :
    lumaNat t.cfg (Memory.read t.mem (t.ta + 4 * k)).toNat (Memory.read t.mem (t.ta + 4 * k + 1)).toNat
      (Memory.read t.mem (t.ta + 4 * k + 2)).toNat = s.grayOf s.mem t.row.toNat (t.col.toNat + k) := by
  obtain ⟨hrow, hcol, hta, -⟩ := hcall.tile_at hph
  have hsource {j : Nat} (hj : j < 4) :
      Memory.read t.mem (t.ta + 4 * k + j) = Memory.read s.mem (t.ta + 4 * k + j) := by
    refine h.outside _ ?_
    rw [hta, Nat.add_assoc, Nat.add_assoc]
    exact source_not_written hv hrow (by omega)
  have haddr : t.ta + 4 * k = s.src.toNat + t.row.toNat * s.sstride.toNat + 4 * (t.col.toNat + k) := by omega
  have hsource0 : Memory.read t.mem (t.ta + 4 * k) = Memory.read s.mem (t.ta + 4 * k) := hsource (j := 0) (by omega)
  rw [hsource0, hsource (by omega), hsource (by omega), haddr, hcall.inputs.cfg, State.grayOf]

/-- A tile that leaves no gap to the pixels converted before it adds its sixteen columns to them. -/
theorem State.Converted.tile {s t : State} {r c : Nat} (h : s.Converted t.mem r c) (hcall : s.InCall t)
    (hv : s.validate = 0) (hph : t.ph = .ld) (hrow : t.row.toNat = r) (hle : t.col.toNat ≤ c) :
    s.Converted t.tileStored.mem r (t.col.toNat + 16) := by
  subst hrow
  have ht : t.ph.inTile = true := by rw [hph, Phase.inTile]
  obtain ⟨hrow, hcol, -, hda⟩ := hcall.tile_at ht
  obtain ⟨-, -, ⟨hwf, -⟩, -⟩ := hcall.inv
  constructor
  · intro r' c' hbefore hc'
    by_cases hnew : r' = t.row.toNat ∧ t.col.toNat ≤ c'
    · obtain ⟨rfl, hge⟩ := hnew
      obtain ⟨k, rfl⟩ := Nat.exists_eq_add_of_le hge
      have hk : k < 16 := by omega
      rw [← destAddr_add, ← hda, read_tileStored hcall.valid hwf hk, h.tile_pixel hcall hv ht hk]
    · have hbelow : s.destAddr r' c' < t.da := by
        rw [hda]
        rcases hbefore with hlt | ⟨rfl, -⟩
        · exact destAddr_lt_of_row_lt hv hlt hc' _
        · exact Nat.add_lt_add_left (by omega) _
      rw [read_tileStored_outside t (.inl hbelow)]
      exact h.pixels r' c' (by omega) hc'
  · intro a ha
    have hout : a < t.da ∨ t.da + 16 ≤ a := by
      by_contra hin
      obtain ⟨k, rfl⟩ := Nat.exists_eq_add_of_le (by omega : t.da ≤ a)
      exact ha ⟨t.row.toNat, t.col.toNat + k, hrow, by omega, by rw [hda, destAddr_add]⟩
    rw [read_tileStored_outside t hout]
    exact h.outside a ha

end Sys2Proof.Machine
end

/-! ## A row, and the whole call (R197, R201, R202, R205) -/

section
namespace Sys2Proof.Machine

/-- The pixels before the end of row `r` are those before row `r + 1`. -/
theorem State.Converted.row {s : State} {m : Memory} {r : Nat} (h : s.Converted m r s.width.toNat) :
    s.Converted m (r + 1) 0 :=
  ⟨fun r' c' hbefore hc' => h.pixels r' c' (by omega) hc', h.outside⟩

section
variable {s t : State} {r c : Nat}

/-- `RCHK` with rows left (R194). -/
theorem State.CallAt.step_rchk (h : s.CallAt .rchk r 0 t) (hr : r < s.height.toNat) :
    ∃ u, step t = .next u ∧ s.CallAt .tchk r 0 u ∧ u.col.toNat = 0 := by
  have hne : t.row ≠ t.height := by
    intro e
    rw [← h.row, e, h.call.inputs.height] at hr
    exact lt_irrefl _ hr
  obtain ⟨-, hmore⟩ := rchkStartsRowOrEndsCall t
  obtain ⟨hstep, hcall⟩ := h.call.next (by rw [State.fetched, h.ph]) (hmore hne)
  exact ⟨_, hstep, ⟨hcall, rfl, h.row, h.converted⟩, rfl⟩

/-- What the three arms of `TCHK` need of the width. -/
theorem State.InCall.width_lt (h : s.InCall t) : t.width.toNat < 2 ^ t.cfg.aw := by
  obtain ⟨-, ⟨-, -, hwidth, -⟩, -⟩ := h.inv
  exact hwidth

/-- `TCHK` with main tiles left (R195). -/
theorem State.CallAt.step_tchk_main (h : s.CallAt .tchk r c t) (hcol : t.col.toNat = c)
    (hc : c < 16 * mainTiles s.width.toNat) :
    ∃ u, step t = .next u ∧ s.CallAt .ld r c u ∧ u.col.toNat = c ∧ u.tailf = false := by
  obtain ⟨hmain, -⟩ := tchkChoosesTile t h.call.valid h.call.width_lt
  rw [h.call.inputs.width, hcol] at hmain
  obtain ⟨-, -, -, -, hcols⟩ := h.call.running (by rw [State.busy, h.ph, Phase.running])
  obtain ⟨htail, -⟩ := hcols h.ph
  obtain ⟨hstep, hcall⟩ := h.call.next (by rw [State.fetched, h.ph]) (hmain hc)
  exact ⟨_, hstep, ⟨hcall, rfl, h.row, h.converted⟩, hcol, htail⟩

/-- `TCHK` after the main tiles of a row with a part tile left (R195). -/
theorem State.CallAt.step_tchk_tail (h : s.CallAt .tchk r c t) (hcol : t.col.toNat = c)
    (hc : 16 * mainTiles s.width.toNat ≤ c) (hpart : s.width.toNat % 16 ≠ 0) :
    ∃ u, step t = .next u ∧ s.CallAt .ld r c u ∧ u.col.toNat + 16 = s.width.toNat ∧ u.tailf = true := by
  obtain ⟨hok, -⟩ := h.call.running (by rw [State.busy, h.ph, Phase.running])
  have hge := hok.width_ge
  obtain ⟨-, htail, -⟩ := tchkChoosesTile t h.call.valid h.call.width_lt
  rw [h.call.inputs.width] at hge htail
  rw [hcol] at htail
  obtain ⟨hstep, hcall⟩ := h.call.next (by rw [State.fetched, h.ph]) (htail hc (by omega) hge)
  have hsub : (s.width - 16).toNat = s.width.toNat - 16 := BitVec.toNat_sub_of_le hge
  refine ⟨_, hstep, ⟨hcall, rfl, h.row, h.converted⟩, ?_, rfl⟩
  change (s.width - 16).toNat + 16 = s.width.toNat
  omega

/-- `TCHK` after the main tiles of a row with nothing left (R195). -/
theorem State.CallAt.step_tchk_end (h : s.CallAt .tchk r c t) (hcol : t.col.toNat = c)
    (hc : 16 * mainTiles s.width.toNat ≤ c) (hwhole : s.width.toNat % 16 = 0) :
    ∃ u, step t = .next u ∧ s.CallAt .radv r c u := by
  obtain ⟨-, -, hend⟩ := tchkChoosesTile t h.call.valid h.call.width_lt
  rw [h.call.inputs.width, hcol] at hend
  obtain ⟨hstep, hcall⟩ := h.call.next (by rw [State.fetched, h.ph]) (hend hc (by omega))
  exact ⟨_, hstep, hcall, rfl, h.row, h.converted⟩

/-- `RADV` at the end of a row (R196). -/
theorem State.CallAt.step_radv (h : s.CallAt .radv r s.width.toNat t) :
    ∃ u, step t = .next u ∧ s.CallAt .rchk (r + 1) 0 u := by
  obtain ⟨-, hlt, -⟩ := h.call.running (by rw [State.busy, h.ph, Phase.running])
  obtain ⟨-, ⟨-, -, -, hheight, -⟩, -⟩ := h.call.inv
  have hrow := hlt (by simp [h.ph])
  obtain ⟨u, hexec, -, -, hnext, hframe⟩ := radvAdvancesRow t h.call.valid
  obtain ⟨hstep, hcall⟩ := h.call.next (by rw [State.fetched, h.ph]) hexec
  have hmem : u.mem = t.mem := (congrArg State.mem hframe :)
  refine ⟨u, hstep, hcall, congrArg State.ph hframe, ?_, hmem ▸ h.converted.row⟩
  rw [hnext (by omega), h.row]

/-- The seven steps of a tile, main or tail (R193). -/
theorem State.CallAt.run_tile (hv : s.validate = 0) (hb : s.footprintsBacked) (h : s.CallAt .ld r c t)
    (hle : t.col.toNat ≤ c) :
    Host.Core.run core 7 t = .next t.tileStored
      ∧ s.CallAt (if t.tailf = true then .radv else .tchk) r (t.col.toNat + 16) t.tileStored := by
  obtain ⟨hrun, hcall⟩ := h.call.run_tile hb h.ph
  refine ⟨hrun, hcall, tileStored_ph t, ?_, h.converted.tile h.call hv h.ph h.row hle⟩
  rw [tileStored_row, h.row]

/-- `TCHK` and a main tile (R193, R195). -/
theorem State.CallAt.run_main_tile (hv : s.validate = 0) (hb : s.footprintsBacked) (h : s.CallAt .tchk r c t)
    (hcol : t.col.toNat = c) (hc : c < 16 * mainTiles s.width.toNat) :
    ∃ u, Host.Core.run core 8 t = .next u ∧ s.CallAt .tchk r (c + 16) u ∧ u.col.toNat = c + 16 := by
  obtain ⟨u, hstep, hu, hcolu, htail⟩ := h.step_tchk_main hcol hc
  obtain ⟨hrun, hnext⟩ := hu.run_tile hv hb hcolu.le
  obtain ⟨-, hfit, -⟩ := hu.call.tile_at (by rw [hu.ph, Phase.inTile])
  have hwidth := hu.call.width_lt
  rw [hu.call.inputs.width] at hwidth
  have hcol' : u.tileStored.col.toNat = u.col.toNat + 16 := by
    rw [tileStored_of_main htail]
    exact wrap_of_lt (aw_le_of_valid hu.call.valid) (by omega)
  rw [htail, hcolu] at hnext
  exact ⟨_, (run_succ hstep).trans hrun, hnext, by rw [hcol', hcolu]⟩

/-- The main tiles of a row, one after the other (R201). -/
theorem State.CallAt.run_main_tiles (hv : s.validate = 0) (hb : s.footprintsBacked) (h : s.CallAt .tchk r 0 t)
    (hcol : t.col.toNat = 0) {n : Nat} (hn : n ≤ mainTiles s.width.toNat) :
    ∃ u, Host.Core.run core (8 * n) t = .next u ∧ s.CallAt .tchk r (16 * n) u ∧ u.col.toNat = 16 * n := by
  induction n with
  | zero => exact ⟨t, rfl, h, hcol⟩
  | succ n ih =>
    obtain ⟨u, hrun, hu, hcolu⟩ := ih (by omega)
    obtain ⟨v, hrun', hv', hcolv⟩ := hu.run_main_tile hv hb hcolu (by omega)
    exact ⟨v, run_append hrun hrun', hv', hcolv⟩

/-- Steps from the last main tile of a row to `RADV` (R201). -/
def rowEndSteps (w : Nat) : Nat := if w % 16 = 0 then 1 else 8

/-- After the main tiles: the tail tile where the width is no multiple of 16 (R195). -/
theorem State.CallAt.run_row_end (hv : s.validate = 0) (hb : s.footprintsBacked)
    (h : s.CallAt .tchk r (16 * mainTiles s.width.toNat) t) (hcol : t.col.toNat = 16 * mainTiles s.width.toNat) :
    ∃ u, Host.Core.run core (rowEndSteps s.width.toNat) t = .next u ∧ s.CallAt .radv r s.width.toNat u := by
  unfold rowEndSteps
  split_ifs with hmod
  · obtain ⟨u, hstep, hu⟩ := h.step_tchk_end hcol le_rfl hmod
    have hwhole : 16 * mainTiles s.width.toNat = s.width.toNat := by unfold mainTiles; omega
    exact ⟨u, run_one hstep, hwhole ▸ hu⟩
  · obtain ⟨u, hstep, hu, hcolu, htail⟩ := h.step_tchk_tail hcol le_rfl hmod
    obtain ⟨hrun, hnext⟩ := hu.run_tile hv hb (by unfold mainTiles; omega)
    rw [htail, hcolu] at hnext
    exact ⟨_, (run_succ hstep).trans hrun, hnext⟩

/-- The steps of a row (R202). -/
def rowSteps (w : Nat) : Nat := mainTiles w + 3 + 7 * rowTiles w

theorem rowSteps_eq (w : Nat) : rowSteps w = 1 + 8 * mainTiles w + rowEndSteps w + 1 := by
  unfold rowSteps rowTiles rowEndSteps
  split_ifs <;> omega

/-- A row, from `RCHK` to `RCHK` (R202). -/
theorem State.CallAt.run_row (hv : s.validate = 0) (hb : s.footprintsBacked) (h : s.CallAt .rchk r 0 t)
    (hr : r < s.height.toNat) :
    ∃ u, Host.Core.run core (rowSteps s.width.toNat) t = .next u ∧ s.CallAt .rchk (r + 1) 0 u := by
  obtain ⟨t₁, hstart, h₁, hcol₁⟩ := h.step_rchk hr
  obtain ⟨t₂, htiles, h₂, hcol₂⟩ := h₁.run_main_tiles hv hb hcol₁ le_rfl
  obtain ⟨t₃, hend, h₃⟩ := h₂.run_row_end hv hb hcol₂
  obtain ⟨u, hadvance, hu⟩ := h₃.step_radv
  rw [rowSteps_eq]
  exact ⟨u, run_append (run_append (run_append (run_one hstart) htiles) hend) (run_one hadvance), hu⟩

/-- The rows, one after the other. -/
theorem State.CallAt.run_rows (hv : s.validate = 0) (hb : s.footprintsBacked) (h : s.CallAt .rchk 0 0 t) {n : Nat}
    (hn : n ≤ s.height.toNat) :
    ∃ u, Host.Core.run core (n * rowSteps s.width.toNat) t = .next u ∧ s.CallAt .rchk n 0 u := by
  induction n with
  | zero => exact ⟨t, by rw [Nat.zero_mul]; rfl, h⟩
  | succ n ih =>
    obtain ⟨u, hrun, hu⟩ := ih (by omega)
    obtain ⟨v, hrun', hv'⟩ := hu.run_row hv hb (by omega)
    rw [Nat.succ_mul]
    exact ⟨v, run_append hrun hrun', hv'⟩

theorem State.SameInputs.alignClass (h : s.SameInputs t) : t.alignClass = s.alignClass := by
  rw [State.alignClass, h.src, h.dst, h.sstride, h.dstride, State.alignClass]

/-- `STATUS` after a call that has completed (R197). -/
theorem status_of_completed (hph : t.ph = .idle) (hdone : t.done = true) (herr : t.err = false)
    (hecode : t.ecode = 0) : t.status = if t.path = true then 0x12 else 0x02 := by
  rw [status_of_idle hph, hdone, herr, hecode]
  cases t.path <;> rfl

/-- `RCHK` after the last row (R194, R197). -/
theorem State.CallAt.step_rchk_last (h : s.CallAt .rchk s.height.toNat 0 t) :
    ∃ u, step t = .next u ∧ u.ph = .idle ∧ u.done = true
      ∧ u.status = (if s.alignClass = true then 0x12 else 0x02) ∧ s.Converted u.mem s.height.toNat 0 := by
  obtain ⟨hok, -⟩ := h.call.running (by rw [State.busy, h.ph, Phase.running])
  have hlast : t.row = t.height := BitVec.eq_of_toNat_eq (h.row.trans (congrArg _ h.call.inputs.height.symm))
  obtain ⟨hend, -⟩ := rchkStartsRowOrEndsCall t
  obtain ⟨hstep, -⟩ := h.call.next (by rw [State.fetched, h.ph]) (hend hlast)
  refine ⟨_, hstep, rfl, rfl, ?_, h.converted⟩
  rw [← h.call.inputs.alignClass, ← hok.path]
  exact status_of_completed rfl rfl hok.err hok.ecode

/-- An accepted `CONVERT` leads to the call's first `RCHK` (R222). -/
theorem callAt_startCall (h : s.Inv) (hv : s.validate = 0) (hturns : s.turns = []) :
    s.CallAt .rchk 0 0 s.clearRecord.startCall := by
  have hinputs : s.SameInputs s.clearRecord.startCall := by constructor <;> rfl
  refine ⟨⟨inv_startCall h hv, hinputs, rfl, hturns⟩, rfl, rfl, ⟨fun r' c' hbefore => ?_, fun a _ => rfl⟩⟩
  omega

/-- A call whose footprints are backed, from `CONVERT` to its end: how many steps it takes (R202), what it records
(R197) and what it computes (R205). -/
theorem call_completes (h : s.Inv) (hph : s.ph = .idle) (hv : s.validate = 0) (hturns : s.turns = [])
    (hb : s.footprintsBacked) :
    ∃ t₀ t : State, exec .convert s = .next t₀
      ∧ Host.Core.run core (callSteps s.width.toNat s.height.toNat) t₀ = .next t ∧ t.ph = .idle ∧ t.done = true
      ∧ t.status = (if t₀.path = true then 0x12 else 0x02) ∧ s.Converted t.mem s.height.toNat 0 := by
  have hexec : exec .convert s = .next s.clearRecord.startCall := by
    rw [exec, execConvert, if_pos hph, convertIdle, if_pos hv]
  obtain ⟨t, hrun, ht⟩ := (callAt_startCall h hv hturns).run_rows hv hb le_rfl
  obtain ⟨u, hstep, hend⟩ := ht.step_rchk_last
  exact ⟨_, u, hexec, run_append hrun (run_one hstep), hend⟩

end

/-- Settles O57: the count and the record of a call that completes. -/
theorem callCompletesInCountedSteps : Obligations.CallCompletesInCountedSteps := by
  intro s h hph hv hturns hb
  obtain ⟨t₀, t, hexec, hrun, hidle, -, hstatus, -⟩ := call_completes h hph hv hturns hb
  exact ⟨t₀, t, hexec, hrun, hidle, hstatus⟩

/-- Settles O58: after the last row every pixel is converted. -/
theorem callComputesGrayImage : Obligations.CallComputesGrayImage := by
  intro s h hph hv hturns hb
  obtain ⟨t₀, t, hexec, hrun, -, hdone, -, hconv⟩ := call_completes h hph hv hturns hb
  exact ⟨t₀, t, hexec, hrun, hdone, fun r c hr hc => hconv.pixels r c (.inl hr) hc, hconv.outside⟩

end Sys2Proof.Machine
end

/-! ## Validation (R223) -/

section
namespace Sys2Proof.Machine

/-! ### The six checks as the spec's table words them -/

theorem nullFails_iff (s : State) : s.nullFails = true ↔ s.src.toNat = 0 ∨ s.dst.toNat = 0 := by
  simp [State.nullFails]

theorem widthFails_iff (s : State) : s.widthFails = true ↔ s.width.toNat < 16 := decide_eq_true_iff

theorem strideFails_iff (s : State) : s.strideFails = true ↔
    s.sstride.toNat < 4 * s.width.toNat ∨ s.dstride.toNat < s.width.toNat := by
  simp [State.strideFails]

theorem sizeFails_iff (s : State) : s.sizeFails = true ↔
    s.srcLen.toNat < s.height.toNat * s.sstride.toNat ∨ s.dstLen.toNat < s.height.toNat * s.dstride.toNat := by
  simp [State.sizeFails]

theorem rangeFails_iff (s : State) : s.rangeFails = true ↔
    s.src.toNat + s.srcLen.toNat > 2 ^ s.cfg.aw ∨ s.dst.toNat + s.dstLen.toNat > 2 ^ s.cfg.aw := by
  simp [State.rangeFails]

theorem overlapFails_iff (s : State) : s.overlapFails = true ↔
    s.srcLen.toNat > 0 ∧ s.dstLen.toNat > 0 ∧ s.src.toNat < s.dst.toNat + s.dstLen.toNat
      ∧ s.dst.toNat < s.src.toNat + s.srcLen.toNat := by
  simp [State.overlapFails, and_assoc]

/-- Settles O12: the model tests the six checks in the table's order. -/
theorem validateReportsFirstFailure : Obligations.ValidateReportsFirstFailure := fun s =>
  if_congr (nullFails_iff s) rfl <| if_congr (widthFails_iff s) rfl <| if_congr (strideFails_iff s) rfl <|
    if_congr (sizeFails_iff s) rfl <| if_congr (rangeFails_iff s) rfl <| if_congr (overlapFails_iff s) rfl rfl

/-- What a descriptor grants when no check fails, every check turned round. -/
theorem validate_eq_zero_iff_granted (s : State) : s.validate = 0 ↔
    s.src ≠ 0 ∧ s.dst ≠ 0 ∧ 16 ≤ s.width.toNat
      ∧ 4 * s.width.toNat ≤ s.sstride.toNat ∧ s.width.toNat ≤ s.dstride.toNat
      ∧ s.height.toNat * s.sstride.toNat ≤ s.srcLen.toNat
      ∧ s.height.toNat * s.dstride.toNat ≤ s.dstLen.toNat
      ∧ s.src.toNat + s.srcLen.toNat ≤ 2 ^ s.cfg.aw ∧ s.dst.toNat + s.dstLen.toNat ≤ 2 ^ s.cfg.aw
      ∧ (s.srcLen.toNat = 0 ∨ s.dstLen.toNat = 0 ∨ s.dst.toNat + s.dstLen.toNat ≤ s.src.toNat
        ∨ s.src.toNat + s.srcLen.toNat ≤ s.dst.toNat) := by
  have hnull (w : Word) : w = 0 ↔ w.toNat = 0 := BitVec.toNat_eq
  simp only [validate_eq_zero_iff, ← Bool.not_eq_true, nullFails_iff, widthFails_iff, strideFails_iff,
    sizeFails_iff, rangeFails_iff, overlapFails_iff, ne_eq, hnull]
  omega

end Sys2Proof.Machine
end

/-! ## Commands (R221, R222, R224, R263) -/

section
namespace Sys2Proof.Machine

/-- `CONVERT` in a running phase and in `FAULT` (R221). -/
theorem exec_convert_of_not_idle {s : State} (hph : s.ph ≠ .idle) : exec .convert s = .next s :=
  if_neg hph

/-- `CONVERT` on a valid descriptor (R222). -/
theorem exec_convert_of_valid {s : State} (hph : s.ph = .idle) (hv : s.validate = 0) :
    exec .convert s = .next s.clearRecord.startCall := by
  rw [exec, execConvert, if_pos hph, convertIdle, if_pos hv]

/-- `CONVERT` on a descriptor that fails a check (R222, R263). -/
theorem exec_convert_of_invalid {s : State} (hph : s.ph = .idle) (hv : s.validate ≠ 0) :
    exec .convert s = .next (s.clearRecord.raiseRefused s.validate) := by
  rw [exec, execConvert, if_pos hph, convertIdle, if_neg hv]

/-- Settles O10: the dispatcher's test is `alignClass` (R225). -/
theorem convertAcceptedStartsCall : Obligations.ConvertAcceptedStartsCall := by
  intro s hph hv
  have hpath : s.alignClass = decide (s.src.toNat % 16 = 0 ∧ s.dst.toNat % 16 = 0 ∧ s.sstride.toNat % 16 = 0
      ∧ s.dstride.toNat % 16 = 0) := by
    rw [Bool.eq_iff_iff, decide_eq_true_iff, alignClass_iff]
    simp only [Nat.dvd_iff_mod_eq_zero]
  rw [exec_convert_of_valid hph hv, State.startCall, alignClass_clearRecord, hpath]
  rfl

/-- `STATUS` after a refusal: `0x004 + 0x100 * code`, plus `0x10` if `PATH` is 1 (R263). -/
theorem status_of_refused {s : State} (hph : s.ph = .idle) (hdone : s.done = false) (herr : s.err = true) :
    s.status.toNat = 0x004 + 0x100 * s.ecode.toNat + (if s.path = true then 0x10 else 0) := by
  rw [status_of_idle hph, hdone, herr]
  generalize s.ecode = code, s.path = path
  revert code path
  decide

/-- Settles O11, by what a refusal writes. -/
theorem convertRefusedRecordsCode : Obligations.ConvertRefusedRecordsCode := by
  intro s hph hv
  exact ⟨_, exec_convert_of_invalid hph hv, rfl,
    status_of_refused (s := s.clearRecord.raiseRefused s.validate) hph rfl rfl⟩

/-- A `CONVERT` that leads to `RCHK` from another phase was accepted: refused or ignored it keeps `PH`. -/
theorem exec_convert_starts_iff {s : State} (hne : s.ph ≠ .rchk) :
    (∃ t, exec .convert s = .next t ∧ t.ph = .rchk) ↔ s.ph = .idle ∧ s.validate = 0 := by
  constructor
  · rintro ⟨t, hexec, ht⟩
    by_cases hph : s.ph = .idle
    · refine ⟨hph, by_contra fun hv => hne ?_⟩
      cases (exec_convert_of_invalid hph hv).symm.trans hexec
      exact ht
    · cases (exec_convert_of_not_idle hph).symm.trans hexec
      exact absurd ht hne
  · rintro ⟨hph, hv⟩
    exact ⟨_, exec_convert_of_valid hph hv, rfl⟩

/-- Settles O13: acceptance is validation passing in `IDLE`, and validation is the six checks. -/
theorem callStartsExactlyWhenValid : Obligations.CallStartsExactlyWhenValid := fun s hne =>
  (exec_convert_starts_iff hne).trans (and_congr_right' (validate_eq_zero_iff_granted s))

/-- A host write of any register, `CMD` included, has no effect in a running phase and in `FAULT`
(R221, R226, R227). -/
theorem writeReg_of_not_idle {s : State} (hph : s.ph ≠ .idle) (n : Nat) (v : Word) :
    writeReg n v s = .next s := by
  by_cases hn : n = 0
  · subst hn
    rcases writeCommand_cases v s with ⟨-, e⟩ | ⟨-, e⟩
    · exact e.trans (exec_convert_of_not_idle hph)
    · exact e.trans (congrArg _ (if_neg hph))
  · rw [writeReg_pos hn, if_neg hph]

/-- Settles O14: `CONVERT` itself, and any word written to register 0. -/
theorem commandsIgnoredOutsideIdle : Obligations.CommandsIgnoredOutsideIdle := fun _ v hph =>
  ⟨exec_convert_of_not_idle hph, writeReg_of_not_idle hph 0 v⟩

/-- Settles O15: the decoder reserves every word but 1, and a reserved word is refused with `E_CMD`. -/
theorem reservedCommandRefused : Obligations.ReservedCommandRefused := by
  intro s v hv
  refine ⟨(decodeCommand_eq v).trans (if_neg hv), fun hph => ?_⟩
  rcases writeCommand_cases v s with ⟨h1, -⟩ | ⟨-, e⟩
  · exact absurd h1 hv
  · exact e.trans (congrArg _ (if_pos hph))

end Sys2Proof.Machine
end

/-! ## The host's accesses of registers (R226, R227, R229) -/

section
namespace Sys2Proof.Machine

/-- A register read after a descriptor write: the value written, or what was there (R226, R228). -/
theorem readReg_setDescriptor {n : Nat} (h2 : 2 ≤ n) (h9 : n ≤ 9) (s : State) (v : Word) (m : Nat) :
    (s.setDescriptor n v).readReg m = if m = n then v else s.readReg m := by
  rcases Nat.lt_or_ge m 10 with hm | hm
  · interval_cases n <;> interval_cases m <;> rfl
  · obtain ⟨k, rfl⟩ := Nat.exists_eq_add_of_le' hm
    rw [if_neg (by omega), readReg_eq_resetOf, setDescriptor_cfg, ← readReg_eq_resetOf]

/-- `STATUS`, the constants and the numbers from 16 on name no register a write stores to (R22, R23, R33, R98). -/
theorem setDescriptor_of_read_only (s : State) (v : Word) :
    ∀ {n : Nat}, n = 1 ∨ 10 ≤ n → s.setDescriptor n v = s
  | 1, _ => rfl
  | _ + 10, _ => rfl

/-- Settles O40: the register read after the write, and the frame of the write. -/
theorem descriptorWriteReadBack : Obligations.DescriptorWriteReadBack := by
  intro s n v h2 h9
  refine ⟨fun hph => ⟨s.setDescriptor n v, ?_, ?_, fun m hne => ?_, ?_⟩, fun hph => writeReg_of_not_idle hph n v⟩
  · rw [writeReg_pos (by omega), if_pos hph]
  · rw [readReg_setDescriptor h2 h9, if_pos rfl]
  · rw [readReg_setDescriptor h2 h9, if_neg hne]
  · obtain ⟨_, _, _, _, _, _, _, _, e⟩ := setDescriptor_frame s n v
    rw [e]

/-- Settles O41: in `IDLE` no register is stored to, and in any other phase no write has an effect. -/
theorem readOnlyRegistersIgnoreWrites : Obligations.ReadOnlyRegistersIgnoreWrites := by
  intro s n v hn
  rw [writeReg_pos (by omega), setDescriptor_of_read_only s v hn, ite_self]

/-- Settles O42: a read and a poll set the host's own fields alone, and a write in a running phase sets nothing. -/
theorem hostAccessHarmlessDuringCall : Obligations.HostAccessHarmlessDuringCall := by
  intro s op hbusy hop
  rcases hop with ⟨n, rfl⟩ | ⟨n, v, rfl, hv⟩ | rfl
  · exact ⟨_, rfl, rfl⟩
  · have hph : s.ph ≠ .idle := fun h => by simp [busy_of_idle h] at hbusy
    exact ⟨s, (if_pos hv).trans (writeReg_of_not_idle hph n v), rfl⟩
  · exact ⟨_, rfl, rfl⟩

end Sys2Proof.Machine
end

/-! ## Faults: the entry, its causes, and the way out (R264 to R266, R269, R277) -/

section
namespace Sys2Proof.Machine

/-! ### `AlignFault` (R264) -/

/-- `TLD.A` checks its address before any access (R171, R264). -/
theorem execTldA_of_misaligned {s : State} (h : s.ta % 16 ≠ 0) : execTldA s = .next (s.raiseFault eAlign) :=
  if_neg (by simpa [aligned] using h)

/-- `TST.A` checks its address before the write (R175, R264). -/
theorem execTstA_of_misaligned {s : State} (h : s.da % 16 ≠ 0) : execTstA s = .next (s.raiseFault eAlign) :=
  if_neg (by simpa [aligned] using h)

/-- Settles O23: the fault entry of `AlignFault` is the state the statement writes out. -/
theorem misalignedAccessRaisesAlignFault : Obligations.MisalignedAccessRaisesAlignFault := fun _ =>
  ⟨execTldA_of_misaligned, execTstA_of_misaligned⟩

/-! ### What leads to `FAULT` -/

/-- Address `a` is one of those the instruction accesses: 64 for a tile load, 16 for a tile store, none for any other
(R170, R174). -/
def State.accesses (s : State) (i : Instr) (a : Nat) : Prop :=
  match i with
  | .tldU | .tldA => s.ta ≤ a ∧ a < s.ta + 64
  | .tstU | .tstA => s.da ≤ a ∧ a < s.da + 16
  | .convert | .rchk | .tchk | .luma _ | .pack | .radv => False

/-- Two ways into `FAULT`: the entry of `AlignFault`, or that of `BusFault` over an accessed byte that is not backed
(R264 to R266). -/
def State.FaultsTo (s : State) (i : Instr) (t : State) : Prop :=
  t = s.raiseFault eAlign ∨ t = s.raiseFault eBus ∧ ∃ a, s.accesses i a ∧ s.memok a ≠ true

/-- A load that ends in `FAULT` met a byte that is not backed. -/
theorem faultsTo_of_tileLoad {i : Instr} {s t : State} (hi : i = .tldU ∨ i = .tldA) (h : tileLoad s = .next t)
    (ht : t.ph = .fault) : s.FaultsTo i t := by
  rcases tileLoad_cases s with ⟨-, e⟩ | ⟨hunbacked, e⟩ <;> cases e.symm.trans h
  · cases ht
  · obtain ⟨j, hj, hok⟩ : ∃ j, j < 64 ∧ s.memok (s.ta + j) ≠ true := by simpa using hunbacked
    refine .inr ⟨rfl, s.ta + j, ?_, hok⟩
    rcases hi with rfl | rfl <;> exact ⟨by omega, by omega⟩

/-- A store that ends in `FAULT` met a byte that is not backed. -/
theorem faultsTo_of_tileStore {i : Instr} {s t : State} (hi : i = .tstU ∨ i = .tstA) (h : tileStore s = .next t)
    (ht : t.ph = .fault) : s.FaultsTo i t := by
  rcases tileStore_cases s with ⟨-, e⟩ | ⟨hunbacked, e⟩ <;> cases e.symm.trans h
  · unfold State.afterStore at ht
    split_ifs at ht
  · obtain ⟨j, hj, hok⟩ : ∃ j, j < 16 ∧ s.memok (s.da + j) ≠ true := by simpa using hunbacked
    refine .inr ⟨rfl, s.da + j, ?_, hok⟩
    rcases hi with rfl | rfl <;> exact ⟨by omega, by omega⟩

/-- The dispatcher leads to `FAULT` from nowhere else (R221). -/
theorem execConvert_ph_ne_fault {s t : State} (h : execConvert s = .next t) (hs : s.ph ≠ .fault) :
    t.ph ≠ .fault := by
  unfold execConvert convertIdle at h
  split_ifs at h <;> cases h
  · simp
  · exact hs
  · exact hs

/-- An instruction that leads to `FAULT` from another phase took one of the two fault entries. -/
theorem faultsTo_of_exec {i : Instr} {s t : State} (h : exec i s = .next t) (hs : s.ph ≠ .fault)
    (ht : t.ph = .fault) : s.FaultsTo i t := by
  cases i with
  | convert => exact absurd ht (execConvert_ph_ne_fault h hs)
  | rchk | tchk =>
    simp only [exec, execRchk, execTchk] at h
    split_ifs at h <;> cases h <;> cases ht
  | luma g =>
    cases h
    exact absurd ht ((by decide : ∀ g, lumaNext g ≠ .fault) g)
  | pack | radv =>
    cases h
    cases ht
  | tldU => exact faultsTo_of_tileLoad (.inl rfl) h ht
  | tstU => exact faultsTo_of_tileStore (.inl rfl) h ht
  | tldA =>
    rcases execTldA_cases s with e | e
    · exact faultsTo_of_tileLoad (.inr rfl) (e.symm.trans h) ht
    · cases e.symm.trans h
      exact .inl rfl
  | tstA =>
    rcases execTstA_cases s with e | e
    · exact faultsTo_of_tileStore (.inr rfl) (e.symm.trans h) ht
    · cases e.symm.trans h
      exact .inl rfl

/-- `STATUS` in `FAULT`: `0x00C + 0x100 * ECODE`, plus `0x10` if `PATH` is 1 (R266). -/
theorem status_of_fault {s : State} (hph : s.ph = .fault) (hdone : s.done = false) (herr : s.err = true) :
    s.status.toNat = 0x00C + 0x100 * s.ecode.toNat + (if s.path = true then 0x10 else 0) := by
  rw [State.status, State.statusLow, State.faulted, busy_of_fault hph, hph, hdone, herr]
  generalize s.ecode = code, s.path = path
  revert code path
  decide

/-- Settles O48: both entries write the record that `status_of_fault` reads, and keep `PATH`. -/
theorem faultStatus : Obligations.FaultStatus := by
  intro s t i h hs ht
  rcases faultsTo_of_exec h hs ht with rfl | ⟨rfl, -⟩
  · exact ⟨.inl rfl, status_of_fault (s := s.raiseFault eAlign) rfl rfl rfl⟩
  · exact ⟨.inr rfl, status_of_fault (s := s.raiseFault eBus) rfl rfl rfl⟩

/-! ### The surroundings outside `IDLE` -/

/-- Outside `IDLE` the surroundings change no register of the block but by `reset` (R221, R226, R227, R290). -/
theorem envOp_frame_of_not_idle {op : EnvOp} {s t : State} (hph : s.ph ≠ .idle) (hop : op ≠ .reset)
    (h : envOp op s = .next t) :
    t = { s with mem := t.mem, unbacked := t.unbacked, env := t.env, reply := t.reply } := by
  cases op with
  | rd n | poll | back rs =>
    cases h
    rfl
  | wr n v =>
    simp only [envOp, writeReg_of_not_idle hph] at h
    split_ifs at h
    cases h
    rfl
  | memRd a | memWr a b =>
    simp only [envOp] at h
    split_ifs at h
    cases h
    rfl
  | reset => exact absurd rfl hop

/-- Settles O47: in `FAULT` the sequencer has no step, and the surroundings' step is the frame above. -/
theorem faultLeftOnlyByReset : Obligations.FaultLeftOnlyByReset := by
  intro s t hph hstep hreset
  obtain ⟨-, rest, ⟨-, hbusy, -⟩ | ⟨op, ops, -, henv, hop⟩⟩ := step_cases hstep
  · exact absurd (busy_of_fault hph) (by simp [hbusy])
  · have hne : op ≠ .reset := by
      rintro rfl
      exact hreset (by rw [henv, List.head?_cons])
    have hframe := envOp_frame_of_not_idle (s := { s with turns := rest, env := ops }) (by simp [hph]) hne hop
    have hturns : t.turns = rest := congrArg State.turns hframe
    rw [hturns]
    exact hframe

/-- No operation of the surroundings leads a busy block to `FAULT`. -/
theorem envOp_ph_ne_fault {op : EnvOp} {s t : State} (hb : s.busy = true) (h : envOp op s = .next t) :
    t.ph ≠ .fault := by
  obtain ⟨hidle, hfault⟩ : s.ph ≠ .idle ∧ s.ph ≠ .fault := by simpa [busy_eq_decide] using hb
  by_cases hop : op = .reset
  · subst hop
    cases h
    simp
  · rw [envOp_frame_of_not_idle hidle hop h]
    exact hfault

/-! ### A call whose buffers are backed (R265, R277) -/

/-- Every byte the sequencer's next instruction accesses lies in a granted buffer (R68). -/
theorem granted_of_accesses {s : State} {i : Instr} {a : Nat} (h : s.Inv) (hi : s.fetched = some i)
    (ha : s.accesses i a) : (s.src.toNat ≤ a ∧ a < s.src.toNat + s.srcLen.toNat)
      ∨ s.dst.toNat ≤ a ∧ a < s.dst.toNat + s.dstLen.toNat := by
  obtain ⟨hload, hstore⟩ := accessesStayInGrantedBuffers s h
  unfold State.fetched at hi
  cases hph : s.ph <;> rw [hph] at hi <;> cases hi
  case ld =>
    obtain ⟨hlo, hhi, -⟩ := hload hph
    have hrange : s.ta ≤ a ∧ a < s.ta + 64 := by split_ifs at ha <;> exact ha
    left
    omega
  case st =>
    obtain ⟨hlo, hhi, -⟩ := hstore hph
    have hrange : s.da ≤ a ∧ a < s.da + 16 := by split_ifs at ha <;> exact ha
    right
    omega
  all_goals exact ha.elim

/-- Under the invariant the only fault of the sequencer is a `BusFault` on a byte of a granted buffer: an `AlignFault`
would record a code the invariant excludes (R203, R265). -/
theorem granted_unbacked_of_fault {s t : State} {i : Instr} (h : s.Inv) (hi : s.fetched = some i)
    (hexec : exec i s = .next t) (ht : t.ph = .fault) : ∃ a, s.memok a ≠ true
      ∧ ((s.src.toNat ≤ a ∧ a < s.src.toNat + s.srcLen.toNat)
        ∨ s.dst.toNat ≤ a ∧ a < s.dst.toNat + s.dstLen.toNat) := by
  have hs : s.ph ≠ .fault := fun e => by simpa [busy_of_fault e] using busy_of_fetched hi
  rcases faultsTo_of_exec hexec hs ht with rfl | ⟨-, a, ha, hok⟩
  · obtain ⟨-, -, -, ⟨-, -, -, hrecord⟩, -⟩ := inv_fetched h hi hexec
    obtain ⟨-, -, hcode⟩ := hrecord rfl
    exact absurd (show eAlign = eBus from hcode) (by decide)
  · exact ⟨a, hok, granted_of_accesses h hi ha⟩

/-- Settles O56: the surroundings raise no fault, and the sequencer only one on an unbacked byte of a granted buffer. -/
theorem backedCallNeverFaults : Obligations.BackedCallNeverFaults := by
  intro s t h hb hsrc hdst hstep ht
  obtain ⟨-, rest, ⟨-, -, hseq⟩ | ⟨op, ops, -, -, henv⟩⟩ := step_cases hstep
  · obtain ⟨i, hi, hexec⟩ := exec_of_sequencerStep hseq
    obtain ⟨a, hok, ⟨hlo, hhi⟩ | ⟨hlo, hhi⟩⟩ :=
      granted_unbacked_of_fault (s := { s with turns := rest }) h hi hexec ht
    · exact hok (hsrc a hlo hhi)
    · exact hok (hdst a hlo hhi)
  · exact envOp_ph_ne_fault (s := { s with turns := rest, env := ops }) hb henv ht

end Sys2Proof.Machine
end

/-! ## The reset event (R49, R290) -/

section
namespace Sys2Proof.Machine

/-- Settles O46: whatever the phase, `reset` answers `resetEvent`, which keeps only the constants, memory and what
lies outside the block; the vector registers, left open by the statement, are its zeros (log 5). -/
theorem resetEventEffect : Obligations.ResetEventEffect := by
  intro s
  have hanswer : envOp .reset s = .next s.resetEvent := rfl
  exact ⟨s.resetEvent, hanswer, rfl⟩

end Sys2Proof.Machine
end
